-- ==== Sys2Proof/Word.lean ====
section
/-! DEFINITION. The word types of the machine (00_scope.md R4, R6, R7): every value is unsigned, bit 0 is the least
significant bit. -/

namespace Sys2Proof

/-- A 4-bit field of an opcode (R81). -/
abbrev Nibble := BitVec 4

/-- A byte: the width of `V[i]`, `SP`, `DT`, `ST` and of a memory cell (R20, R25 to R27, R30). -/
abbrev Byte := BitVec 8

/-- A 12-bit immediate address `nnn` (R81, R83). -/
abbrev Addr := BitVec 12

/-- A 16-bit word: the width of an opcode, of `I`, `PC` and of a stack entry (R80, R22 to R24). -/
abbrev Word := BitVec 16

/-- The index of a general register, the `x` or `y` field (R20, R83): all 16 values name a register. -/
abbrev RegIdx := BitVec 4

/-- The number of a key of the keypad, 0 to 15 (R216). -/
abbrev Key := BitVec 4

/-- VF, register 15, the only flag of the machine (R21). -/
abbrev vf : RegIdx := 0xF#4

end Sys2Proof
end

