-- ==== Sys2Proof/Machine/Flags.lean ====
section
/-! DEFINITION. Every flag computation of the spec (R21, R153): the values that the flag-producing instructions write to VF.
The collision flag of `Dxyn` is sticky and is set pixel by pixel in Machine/Display.lean (R193). -/

namespace Sys2Proof.Machine

/-- A flag as the byte VF receives: 0 or 1 (R21). -/
def flagByte (b : Bool) : Byte := if b then 1#8 else 0#8

/-- Carry out of `a + b`: the sum before reduction exceeds 255 (R146). -/
def carryFlag (a b : Byte) : Byte := flagByte (decide (a.toNat + b.toNat > 255))

/-- Not-borrow of `a − b`: 0 if `b > a`, else 1 (R147, R149). -/
def notBorrowFlag (a b : Byte) : Byte := if b.toNat > a.toNat then 0#8 else 1#8

/-- The bit a right shift by one drops (R148). -/
def lowBitFlag (a : Byte) : Byte := flagByte (a.getLsbD 0)

/-- The bit a left shift by one drops (R150). -/
def highBitFlag (a : Byte) : Byte := flagByte (a.getLsbD 7)

end Sys2Proof.Machine
end

