-- ==== Sys2Proof/Syntax.lean ====
section
/-! DEFINITION. The instructions, one constructor per row of opcode_table.json (30_encoding.md R85), named after the
customary mnemonic of R89; each docstring opens with the pattern, which is the instruction's name in the spec. -/

namespace Sys2Proof

/-- The 34 instructions of R85 and the unmatched word of R87. -/
inductive Instr where
  /-- `00E0` clear display (R192). -/
  | cls
  /-- `00EE` return from subroutine (R120). -/
  | ret
  /-- `1nnn` jump (R121). -/
  | jp (nnn : Addr)
  /-- `2nnn` call subroutine (R122). -/
  | call (nnn : Addr)
  /-- `3xkk` skip if register equals byte (R123). -/
  | seByte (x : RegIdx) (kk : Byte)
  /-- `4xkk` skip if register differs from byte (R124). -/
  | sneByte (x : RegIdx) (kk : Byte)
  /-- `5xy0` skip if registers equal (R125). -/
  | seReg (x : RegIdx) (y : RegIdx)
  /-- `6xkk` load byte (R140). -/
  | ldByte (x : RegIdx) (kk : Byte)
  /-- `7xkk` add byte (R141). -/
  | addByte (x : RegIdx) (kk : Byte)
  /-- `8xy0` copy register (R142). -/
  | ldReg (x : RegIdx) (y : RegIdx)
  /-- `8xy1` bitwise OR (R143). -/
  | orReg (x : RegIdx) (y : RegIdx)
  /-- `8xy2` bitwise AND (R144). -/
  | andReg (x : RegIdx) (y : RegIdx)
  /-- `8xy3` bitwise XOR (R145). -/
  | xorReg (x : RegIdx) (y : RegIdx)
  /-- `8xy4` add registers, VF = carry (R146). -/
  | addReg (x : RegIdx) (y : RegIdx)
  /-- `8xy5` subtract `V[y]` from `V[x]`, VF = not-borrow (R147). -/
  | subReg (x : RegIdx) (y : RegIdx)
  /-- `8xy6` copy `V[y]` and shift right by one (R148). -/
  | shrReg (x : RegIdx) (y : RegIdx)
  /-- `8xy7` subtract `V[x]` from `V[y]`, VF = not-borrow (R149). -/
  | subnReg (x : RegIdx) (y : RegIdx)
  /-- `8xyE` copy `V[y]` and shift left by one (R150). -/
  | shlReg (x : RegIdx) (y : RegIdx)
  /-- `9xy0` skip if registers differ (R126). -/
  | sneReg (x : RegIdx) (y : RegIdx)
  /-- `Annn` load index register (R170). -/
  | ldI (nnn : Addr)
  /-- `Bnnn` jump to `V[0] + nnn` (R127). -/
  | jpV0 (nnn : Addr)
  /-- `Cxkk` random byte AND `kk` (R151). -/
  | rnd (x : RegIdx) (kk : Byte)
  /-- `Dxyn` draw sprite (R193). -/
  | drw (x : RegIdx) (y : RegIdx) (n : Nibble)
  /-- `Ex9E` skip if key held (R210). -/
  | skp (x : RegIdx)
  /-- `ExA1` skip if key not held (R211). -/
  | sknp (x : RegIdx)
  /-- `Fx07` read delay timer (R213). -/
  | ldVxDT (x : RegIdx)
  /-- `Fx0A` wait for a key release (R212). -/
  | waitKey (x : RegIdx)
  /-- `Fx15` set delay timer (R214). -/
  | ldDT (x : RegIdx)
  /-- `Fx18` set sound timer (R215). -/
  | ldST (x : RegIdx)
  /-- `Fx1E` add register to index register (R171). -/
  | addI (x : RegIdx)
  /-- `Fx29` load glyph address (R172). -/
  | ldF (x : RegIdx)
  /-- `Fx33` store the three decimal digits (R173). -/
  | ldB (x : RegIdx)
  /-- `Fx55` store `V[0]`..`V[x]` (R174). -/
  | storeRegs (x : RegIdx)
  /-- `Fx65` load `V[0]`..`V[x]` (R175). -/
  | loadRegs (x : RegIdx)
  /-- Row `UNIMPL`: a word `op` that matches none of the 34 patterns (R87, R107). -/
  | unimpl (op : Word)
  deriving DecidableEq, Repr

end Sys2Proof
end

