-- ==== Sys2Proof/WellFormed.lean ====
section
/-! DEFINITION. The opcode map of 30_encoding.md R85 as mask and match words, and well-formed instructions. Operand fields
carry their width in their type, so the one thing to check is that an unmatched instruction holds an unmatched word. -/

namespace Sys2Proof

/-- One row of the opcode map (R85): a word `op` is of the row when `op & mask == value`. -/
structure OpRow where
  mask  : Word
  value : Word
  deriving DecidableEq, Repr

/-- The row's own test (R85). -/
def OpRow.covers (r : OpRow) (op : Word) : Bool := op &&& r.mask == r.value

/-- The 34 rows of R85, in the table's order. -/
def opTable : List OpRow :=
  [⟨0xFFFF, 0x00E0⟩, ⟨0xFFFF, 0x00EE⟩, ⟨0xF000, 0x1000⟩, ⟨0xF000, 0x2000⟩, ⟨0xF000, 0x3000⟩, ⟨0xF000, 0x4000⟩] ++
  [⟨0xF00F, 0x5000⟩, ⟨0xF000, 0x6000⟩, ⟨0xF000, 0x7000⟩, ⟨0xF00F, 0x8000⟩, ⟨0xF00F, 0x8001⟩, ⟨0xF00F, 0x8002⟩] ++
  [⟨0xF00F, 0x8003⟩, ⟨0xF00F, 0x8004⟩, ⟨0xF00F, 0x8005⟩, ⟨0xF00F, 0x8006⟩, ⟨0xF00F, 0x8007⟩, ⟨0xF00F, 0x800E⟩] ++
  [⟨0xF00F, 0x9000⟩, ⟨0xF000, 0xA000⟩, ⟨0xF000, 0xB000⟩, ⟨0xF000, 0xC000⟩, ⟨0xF000, 0xD000⟩] ++
  [⟨0xF0FF, 0xE09E⟩, ⟨0xF0FF, 0xE0A1⟩, ⟨0xF0FF, 0xF007⟩, ⟨0xF0FF, 0xF00A⟩, ⟨0xF0FF, 0xF015⟩, ⟨0xF0FF, 0xF018⟩] ++
  [⟨0xF0FF, 0xF01E⟩, ⟨0xF0FF, 0xF029⟩, ⟨0xF0FF, 0xF033⟩, ⟨0xF0FF, 0xF055⟩, ⟨0xF0FF, 0xF065⟩]

/-- Some row of R85 has the word; a word without one is unmatched (R87). -/
def matchedWord (op : Word) : Bool := opTable.any (fun r => r.covers op)

/-- The row of R85 an instruction belongs to; the unmatched word has the table's fallback row, mask 0 (R107). -/
def Instr.row : Instr → OpRow
  | .cls           => ⟨0xFFFF, 0x00E0⟩
  | .ret           => ⟨0xFFFF, 0x00EE⟩
  | .jp _          => ⟨0xF000, 0x1000⟩
  | .call _        => ⟨0xF000, 0x2000⟩
  | .seByte _ _    => ⟨0xF000, 0x3000⟩
  | .sneByte _ _   => ⟨0xF000, 0x4000⟩
  | .seReg _ _     => ⟨0xF00F, 0x5000⟩
  | .ldByte _ _    => ⟨0xF000, 0x6000⟩
  | .addByte _ _   => ⟨0xF000, 0x7000⟩
  | .ldReg _ _     => ⟨0xF00F, 0x8000⟩
  | .orReg _ _     => ⟨0xF00F, 0x8001⟩
  | .andReg _ _    => ⟨0xF00F, 0x8002⟩
  | .xorReg _ _    => ⟨0xF00F, 0x8003⟩
  | .addReg _ _    => ⟨0xF00F, 0x8004⟩
  | .subReg _ _    => ⟨0xF00F, 0x8005⟩
  | .shrReg _ _    => ⟨0xF00F, 0x8006⟩
  | .subnReg _ _   => ⟨0xF00F, 0x8007⟩
  | .shlReg _ _    => ⟨0xF00F, 0x800E⟩
  | .sneReg _ _    => ⟨0xF00F, 0x9000⟩
  | .ldI _         => ⟨0xF000, 0xA000⟩
  | .jpV0 _        => ⟨0xF000, 0xB000⟩
  | .rnd _ _       => ⟨0xF000, 0xC000⟩
  | .drw _ _ _     => ⟨0xF000, 0xD000⟩
  | .skp _         => ⟨0xF0FF, 0xE09E⟩
  | .sknp _        => ⟨0xF0FF, 0xE0A1⟩
  | .ldVxDT _      => ⟨0xF0FF, 0xF007⟩
  | .waitKey _     => ⟨0xF0FF, 0xF00A⟩
  | .ldDT _        => ⟨0xF0FF, 0xF015⟩
  | .ldST _        => ⟨0xF0FF, 0xF018⟩
  | .addI _        => ⟨0xF0FF, 0xF01E⟩
  | .ldF _         => ⟨0xF0FF, 0xF029⟩
  | .ldB _         => ⟨0xF0FF, 0xF033⟩
  | .storeRegs _   => ⟨0xF0FF, 0xF055⟩
  | .loadRegs _    => ⟨0xF0FF, 0xF065⟩
  | .unimpl _      => ⟨0x0000, 0x0000⟩

/-- An instruction is well formed when its word is its own: only `unimpl` can fail, on a word that one of the 34 rows
has (R85, R87). -/
def Instr.wellFormed : Instr → Bool
  | .cls           => true
  | .ret           => true
  | .jp _          => true
  | .call _        => true
  | .seByte _ _    => true
  | .sneByte _ _   => true
  | .seReg _ _     => true
  | .ldByte _ _    => true
  | .addByte _ _   => true
  | .ldReg _ _     => true
  | .orReg _ _     => true
  | .andReg _ _    => true
  | .xorReg _ _    => true
  | .addReg _ _    => true
  | .subReg _ _    => true
  | .shrReg _ _    => true
  | .subnReg _ _   => true
  | .shlReg _ _    => true
  | .sneReg _ _    => true
  | .ldI _         => true
  | .jpV0 _        => true
  | .rnd _ _       => true
  | .drw _ _ _     => true
  | .skp _         => true
  | .sknp _        => true
  | .ldVxDT _      => true
  | .waitKey _     => true
  | .ldDT _        => true
  | .ldST _        => true
  | .addI _        => true
  | .ldF _         => true
  | .ldB _         => true
  | .storeRegs _   => true
  | .loadRegs _    => true
  | .unimpl op     => !matchedWord op

end Sys2Proof
end

