-- ==== Sys2Proof/Decode.lean ====
section
/-! DEFINITION. Decoding and encoding (30_encoding.md R80 to R87). Every pair of bytes is an instruction: a word outside the
34 patterns is the unmatched one, so the one thing the decoder rejects is fewer than two bytes. -/

namespace Sys2Proof

/-! ### The fields of an opcode (R81) -/

/-- `top`, bits 15:12. -/
def fieldTop (op : Word) : Nibble := op.extractLsb' 12 4

/-- `x`, bits 11:8. -/
def fieldX (op : Word) : RegIdx := op.extractLsb' 8 4

/-- `y`, bits 7:4. -/
def fieldY (op : Word) : RegIdx := op.extractLsb' 4 4

/-- `n`, bits 3:0. -/
def fieldN (op : Word) : Nibble := op.extractLsb' 0 4

/-- `kk`, bits 7:0. -/
def fieldKk (op : Word) : Byte := op.extractLsb' 0 8

/-- `nnn`, bits 11:0. -/
def fieldNnn (op : Word) : Addr := op.extractLsb' 0 12

/-! ### Dispatch (R84, R86) -/

/-- Family 0 matches the whole word. -/
def decodeFamily0 (op : Word) : Instr :=
  if op = 0x00E0#16 then .cls
  else if op = 0x00EE#16 then .ret
  else .unimpl op

/-- Family 8 dispatches again on `n`. -/
def decodeFamily8 (op : Word) : Instr :=
  match fieldN op with
  | 0x0#4 => .ldReg (fieldX op) (fieldY op)
  | 0x1#4 => .orReg (fieldX op) (fieldY op)
  | 0x2#4 => .andReg (fieldX op) (fieldY op)
  | 0x3#4 => .xorReg (fieldX op) (fieldY op)
  | 0x4#4 => .addReg (fieldX op) (fieldY op)
  | 0x5#4 => .subReg (fieldX op) (fieldY op)
  | 0x6#4 => .shrReg (fieldX op) (fieldY op)
  | 0x7#4 => .subnReg (fieldX op) (fieldY op)
  | 0xE#4 => .shlReg (fieldX op) (fieldY op)
  | _     => .unimpl op

/-- Family E dispatches again on `kk`. -/
def decodeFamilyE (op : Word) : Instr :=
  match fieldKk op with
  | 0x9E#8 => .skp (fieldX op)
  | 0xA1#8 => .sknp (fieldX op)
  | _      => .unimpl op

/-- Family F dispatches again on `kk`. -/
def decodeFamilyF (op : Word) : Instr :=
  match fieldKk op with
  | 0x07#8 => .ldVxDT (fieldX op)
  | 0x0A#8 => .waitKey (fieldX op)
  | 0x15#8 => .ldDT (fieldX op)
  | 0x18#8 => .ldST (fieldX op)
  | 0x1E#8 => .addI (fieldX op)
  | 0x29#8 => .ldF (fieldX op)
  | 0x33#8 => .ldB (fieldX op)
  | 0x55#8 => .storeRegs (fieldX op)
  | 0x65#8 => .loadRegs (fieldX op)
  | _      => .unimpl op

/-- The instruction of a word (R84 to R87): `top` selects the family; families 5 and 9 require `n = 0`. -/
def decodeWord (op : Word) : Instr :=
  match fieldTop op with
  | 0x0#4 => decodeFamily0 op
  | 0x1#4 => .jp (fieldNnn op)
  | 0x2#4 => .call (fieldNnn op)
  | 0x3#4 => .seByte (fieldX op) (fieldKk op)
  | 0x4#4 => .sneByte (fieldX op) (fieldKk op)
  | 0x5#4 => if fieldN op = 0x0#4 then .seReg (fieldX op) (fieldY op) else .unimpl op
  | 0x6#4 => .ldByte (fieldX op) (fieldKk op)
  | 0x7#4 => .addByte (fieldX op) (fieldKk op)
  | 0x8#4 => decodeFamily8 op
  | 0x9#4 => if fieldN op = 0x0#4 then .sneReg (fieldX op) (fieldY op) else .unimpl op
  | 0xA#4 => .ldI (fieldNnn op)
  | 0xB#4 => .jpV0 (fieldNnn op)
  | 0xC#4 => .rnd (fieldX op) (fieldKk op)
  | 0xD#4 => .drw (fieldX op) (fieldY op) (fieldN op)
  | 0xE#4 => decodeFamilyE op
  | _     => decodeFamilyF op

/-- What the decoder rejects, by name. -/
inductive DecodeError where
  /-- Fewer than the two bytes of an instruction (R80). -/
  | truncated
  deriving DecidableEq, Repr

/-- The word of two bytes, high byte first (R53, R80). -/
def wordOfBytes (hi lo : Byte) : Word := hi ++ lo

/-- Decode the instruction at the head of a list of bytes and give the rest of the list. -/
def decodeBytes : List Byte → Except DecodeError (Instr × List Byte)
  | hi :: lo :: rest => .ok (decodeWord (wordOfBytes hi lo), rest)
  | [_]              => .error .truncated
  | []               => .error .truncated

/-! ### Encoding: the formats of R82 -/

/-- Format A: `top`, `nnn`. -/
def packA (top : Nibble) (nnn : Addr) : Word := top ++ nnn

/-- Formats XK and X: `top`, `x`, `kk` (in X the byte is the fixed sub-opcode). -/
def packXK (top : Nibble) (x : RegIdx) (kk : Byte) : Word := top ++ x ++ kk

/-- Formats XY and XYN: `top`, `x`, `y`, `n` (in XY the last nibble is the fixed sub-opcode). -/
def packXYN (top : Nibble) (x y : RegIdx) (n : Nibble) : Word := top ++ x ++ y ++ n

/-- The word of an instruction (R82, R85). -/
def encode : Instr → Word
  | .cls            => 0x00E0#16
  | .ret            => 0x00EE#16
  | .jp nnn         => packA 0x1#4 nnn
  | .call nnn       => packA 0x2#4 nnn
  | .seByte x kk    => packXK 0x3#4 x kk
  | .sneByte x kk   => packXK 0x4#4 x kk
  | .seReg x y      => packXYN 0x5#4 x y 0x0#4
  | .ldByte x kk    => packXK 0x6#4 x kk
  | .addByte x kk   => packXK 0x7#4 x kk
  | .ldReg x y      => packXYN 0x8#4 x y 0x0#4
  | .orReg x y      => packXYN 0x8#4 x y 0x1#4
  | .andReg x y     => packXYN 0x8#4 x y 0x2#4
  | .xorReg x y     => packXYN 0x8#4 x y 0x3#4
  | .addReg x y     => packXYN 0x8#4 x y 0x4#4
  | .subReg x y     => packXYN 0x8#4 x y 0x5#4
  | .shrReg x y     => packXYN 0x8#4 x y 0x6#4
  | .subnReg x y    => packXYN 0x8#4 x y 0x7#4
  | .shlReg x y     => packXYN 0x8#4 x y 0xE#4
  | .sneReg x y     => packXYN 0x9#4 x y 0x0#4
  | .ldI nnn        => packA 0xA#4 nnn
  | .jpV0 nnn       => packA 0xB#4 nnn
  | .rnd x kk       => packXK 0xC#4 x kk
  | .drw x y n      => packXYN 0xD#4 x y n
  | .skp x          => packXK 0xE#4 x 0x9E#8
  | .sknp x         => packXK 0xE#4 x 0xA1#8
  | .ldVxDT x       => packXK 0xF#4 x 0x07#8
  | .waitKey x      => packXK 0xF#4 x 0x0A#8
  | .ldDT x         => packXK 0xF#4 x 0x15#8
  | .ldST x         => packXK 0xF#4 x 0x18#8
  | .addI x         => packXK 0xF#4 x 0x1E#8
  | .ldF x          => packXK 0xF#4 x 0x29#8
  | .ldB x          => packXK 0xF#4 x 0x33#8
  | .storeRegs x    => packXK 0xF#4 x 0x55#8
  | .loadRegs x     => packXK 0xF#4 x 0x65#8
  | .unimpl op      => op

/-- The two bytes of a word as memory holds them, high byte at the lower address (R80). -/
def bytesOfWord (op : Word) : List Byte := [op.extractLsb' 8 8, op.extractLsb' 0 8]

/-! ### The host's numbering of an instruction's bits -/

/-- The bytes, as memory holds them, of the instruction whose low `nbits` bits are `w` and whose other bits are 0: one
16-bit word, bit 0 its least significant. -/
def tableBytes (nbits w : Nat) : List Byte := bytesOfWord (BitVec.ofNat 16 (w % 2 ^ nbits))

/-- The instruction the decoder reads from such bytes. -/
def decodeTableWord (nbits w : Nat) : Option Instr :=
  match decodeBytes (tableBytes nbits w) with
  | .ok (i, _) => some i
  | .error _   => none

end Sys2Proof
end

