-- ==== Sys2Proof/Config.lean ====
section
/-! DEFINITION. What is fixed for this hardware (00_scope.md R4), the default font table (20_memory.md R59), and the free
values: the answers the ports and the host give, constants with no body, so that nothing can be proved of them. -/

namespace Sys2Proof.Config

/-- `MEM_SIZE` (R4): the number of bytes of memory. -/
@[simp] abbrev memSize : Nat := 4096

/-- `FONT_BASE` (R4): where the font table starts. -/
@[simp] abbrev fontBase : Nat := 0x050

/-- `GLYPH_LEN` (R4): the bytes of one glyph. -/
@[simp] abbrev glyphLen : Nat := 5

/-- `FONT_LEN` (R4): the bytes of the font table, 16 glyphs of 5. -/
@[simp] abbrev fontLen : Nat := 80

/-- `ROM_BASE` (R4): where a program is loaded and where the first `Cycle` fetches. -/
@[simp] abbrev romBase : Nat := 0x200

/-- `ROM_MAX` (R4): the longest program `LoadRom` takes. -/
@[simp] abbrev romMax : Nat := 3584

/-- `DISP_W` (R4): the columns of the display. -/
@[simp] abbrev dispW : Nat := 64

/-- `DISP_H` (R4): the rows of the display. -/
@[simp] abbrev dispH : Nat := 32

/-- The 80 bytes of the default `FONT` (R59), glyph by glyph.
PRESUMED (the customary CHIP-8 font, from general knowledge, as R59 says; unsafe: log entry 1). -/
def defaultFontBytes : List Byte :=
  [0xF0#8, 0x90#8, 0x90#8, 0x90#8, 0xF0#8] ++ [0x20#8, 0x60#8, 0x20#8, 0x20#8, 0x70#8] ++
  [0xF0#8, 0x10#8, 0xF0#8, 0x80#8, 0xF0#8] ++ [0xF0#8, 0x10#8, 0xF0#8, 0x10#8, 0xF0#8] ++
  [0x90#8, 0x90#8, 0xF0#8, 0x10#8, 0x10#8] ++ [0xF0#8, 0x80#8, 0xF0#8, 0x10#8, 0xF0#8] ++
  [0xF0#8, 0x80#8, 0xF0#8, 0x90#8, 0xF0#8] ++ [0xF0#8, 0x10#8, 0x20#8, 0x40#8, 0x40#8] ++
  [0xF0#8, 0x90#8, 0xF0#8, 0x90#8, 0xF0#8] ++ [0xF0#8, 0x90#8, 0xF0#8, 0x10#8, 0xF0#8] ++
  [0xF0#8, 0x90#8, 0xF0#8, 0x90#8, 0x90#8] ++ [0xE0#8, 0x90#8, 0xE0#8, 0x90#8, 0xE0#8] ++
  [0xF0#8, 0x80#8, 0x80#8, 0x80#8, 0xF0#8] ++ [0xE0#8, 0x90#8, 0x90#8, 0x90#8, 0xE0#8] ++
  [0xF0#8, 0x80#8, 0xF0#8, 0x80#8, 0xF0#8] ++ [0xF0#8, 0x80#8, 0xF0#8, 0x80#8, 0x80#8]

/-- The default `FONT` table (R59). -/
def defaultFont : Vector Byte 80 := ⟨⟨defaultFontBytes⟩, rfl⟩

/-- The `n`-th free value as an answer of `Random8()` (R151, R244). DESIGN CHOICE, safe: log entry 2. -/
opaque randomByte : Nat → Byte

/-- The `n`-th free value as an answer of `KeyHeld(K)`, `K ≤ 15` (R216). DESIGN CHOICE, safe: log entry 3. -/
opaque keyHeld : Nat → Key → Bool

/-- The `n`-th free value as an answer of `KeyReleased()`: a key or none (R216). DESIGN CHOICE, safe: log entry 4. -/
opaque keyReleased : Nat → Option Key

/-- The `n`-th free value as the number of `Tick`s the host invokes before its next `Cycle` (R278).
DESIGN CHOICE, safe as to `Tick`: log entry 5. -/
opaque ticksBefore : Nat → Nat

end Sys2Proof.Config
end

