-- ==== Sys2Proof/Machine/State.lean ====
section
/-! DEFINITION. The state of the machine (10_state.md R20 to R31), plain data, its value after reset (R36), and the reasons
a step can stop. -/

namespace Sys2Proof.Machine

/-- The bytes of memory that differ from what an unlisted address reads as: strictly rising addresses below 4096
(R30, R50; the form is `Memory.wf` in Machine/Ops.lean). -/
abbrev Memory := List Host.Cell

/-- The launch parameter `FONT` (R5, R59): glyph `d`, row `k` is byte `5 * d + k`. -/
abbrev Font := Vector Byte 80

/-- The framebuffer (R31): 32 rows of 64 pixels, `true` = on. -/
abbrev FrameBuffer := Vector (Vector Bool 64) 32

/-- The two fatal conditions an instruction can raise (60_exceptions.md R230). -/
inductive Condition where
  /-- `2nnn` with `SP = 16` (R231). -/
  | stackOverflow
  /-- `00EE` with `SP = 0` (R232). -/
  | stackUnderflow
  deriving DecidableEq, Repr

/-- The operations the host invokes, each one atomic transition (00_scope.md R10, 70_reset_and_hazards.md R273). -/
inductive HostOp where
  /-- Execute one instruction (R100). -/
  | cycle
  /-- Advance the timers (R240). -/
  | tick
  /-- Read one pixel (R190, R242). -/
  | getPixel (row : Nat) (col : Nat)
  /-- Put the core into its initial state (R270). -/
  | reset
  /-- Copy a program to 0x200 (R58). -/
  | loadRom (bytes : List Byte)
  deriving DecidableEq, Repr

/-- What the core hands to the host (R242): the only way state leaves it besides `FAULT`. -/
inductive Output where
  /-- `Report(pc, op)`: an unmatched word was executed (R235). -/
  | report (pc : Word) (op : Word)
  /-- The answer of `GetPixel(row, col)` (R190). -/
  | pixel (row : Nat) (col : Nat) (on : Bool)
  deriving DecidableEq, Repr

/-- The MODEL's record of what lies outside the core: the host's next operations and the ports' answers still to come,
oldest first. Where a list is empty the answer is a free value of Config, numbered by `drawn`. DESIGN CHOICE, log
entries 2 to 5. -/
structure Env where
  /-- The operations the host invokes next (R273, R278). -/
  ops      : List HostOp
  /-- Answers of `Random8()` (R151). -/
  random   : List Byte
  /-- Answers of `KeyHeld(K)` for `K ≤ 15` (R216). -/
  held     : List Bool
  /-- Answers of `KeyReleased()`: a key, or none (R216). -/
  released : List (Option Key)
  /-- How many free values have been drawn. -/
  drawn    : Nat
  deriving DecidableEq, Repr

/-- The state of the machine. -/
structure State where
  /-- `V[0]`..`V[15]` (R20); `V[15]` is VF (R21). -/
  v        : Vector Byte 16
  /-- `I`, the index register (R22). -/
  i        : Word
  /-- `PC`, the program counter (R23). -/
  pc       : Word
  /-- `STACK[0]`..`STACK[15]` (R24). -/
  stack    : Vector Word 16
  /-- `SP`, the number of return addresses on the stack (R25). -/
  sp       : Byte
  /-- `DT`, the delay timer (R26). -/
  dt       : Byte
  /-- `ST`, the sound timer (R27). -/
  st       : Byte
  /-- `WAIT`: blocked on a key (R28). -/
  wait     : Bool
  /-- `WREG`: the register the awaited key goes to, meaningful while `WAIT` is 1 (R28). -/
  wreg     : RegIdx
  /-- `FAULT`, the fatal-condition latch: 0 none, 1 StackOverflow, 2 StackUnderflow (R29). -/
  fault    : BitVec 2
  /-- `MEM` (R30). -/
  mem      : Memory
  /-- `FB` (R31). -/
  fb       : FrameBuffer
  /-- `FONT`, a launch parameter (R5): no operation writes it. -/
  font     : Font
  /-- MODEL's own: `LoadRom` is still permitted (R58, R271). Log entry 9. -/
  loadable : Bool
  /-- MODEL's own: the host and the ports. Log entries 2 to 5. -/
  env      : Env
  /-- MODEL's own: what the host got, newest first. Log entry 10. -/
  outputs  : List Output
  deriving DecidableEq, Repr

/-- Why the machine stops with a fault. The two faults of the spec are no reason here: they latch `FAULT` and the step
answers a next state (R233, R234). -/
inductive Fault where
  /-- Raised by `2nnn` and `00EE` when `SP` is above 16, where the spec gives no stack entry: no run reaches such a state
  (R25, R37). Safe. Log entry 8. -/
  | stackPointerAbove16
  deriving DecidableEq, Repr

/-- Why a step has no meaning. -/
inductive Refusal where
  /-- Raised by `exec` for an instruction that has no meaning yet, by its mnemonic. Safe. -/
  | notModelled (mnemonic : String)
  /-- Raised by the host operation `LoadRom` with more than 3584 bytes (R249). Safe. -/
  | romTooLong
  /-- Raised by the host operation `LoadRom` when it is not the first since `Reset` or a `Cycle` has run, which the host is
  assumed never to do (R58, R273). Safe. Log entry 9. -/
  | loadRomNotAtBoot
  deriving DecidableEq, Repr

/-- The outcome of one step or one instruction. -/
abbrev Result := Host.Outcome State Fault Refusal

/-- Nothing scheduled and no answer given: every answer is a free value. -/
def Env.free : Env := { ops := [], random := [], held := [], released := [], drawn := 0 }

/-- The state after `Reset` (R36), with the default font (log entry 1) and the model's own fields empty. -/
def State.reset : State where
  v        := Vector.replicate 16 0#8
  i        := 0#16
  pc       := 0x0200#16
  stack    := Vector.replicate 16 0#16
  sp       := 0#8
  dt       := 0#8
  st       := 0#8
  wait     := false
  wreg     := 0#4
  fault    := 0#2
  mem      := []
  fb       := Vector.replicate 32 (Vector.replicate 64 false)
  font     := Config.defaultFont
  loadable := true
  env      := Env.free
  outputs  := []

end Sys2Proof.Machine
end

