-- ==== Sys2Proof/Machine/Ops.lean ====
section
/-! DEFINITION. The named operations over the state: register, memory, stack and display accessors, the program counter's
advance, raising a fault, the ports, and the host's operations other than `Cycle`. Every read and write of the state in the
meanings goes through these. -/

namespace Sys2Proof.Machine

/-! ### One update per field -/

/-- `V[x]` (R8, R20). -/
def State.readV (s : State) (x : RegIdx) : Byte := s.v[x.toNat]'x.isLt

/-- `V[x] <- b` (R8, R20). -/
def State.setV (s : State) (x : RegIdx) (b : Byte) : State := { s with v := s.v.set x.toNat b x.isLt }

/-- `I <- a` (R22). -/
def State.setI (s : State) (a : Word) : State := { s with i := a }

/-- `PC <- a` (R23). -/
def State.setPc (s : State) (a : Word) : State := { s with pc := a }

/-- `SP <- b` (R25). -/
def State.setSp (s : State) (b : Byte) : State := { s with sp := b }

/-- `STACK[k] <- a` for `k` below 16 (R24). -/
def State.setStack (s : State) (k : Nat) (a : Word) : State := { s with stack := s.stack.setIfInBounds k a }

/-- `DT <- b` (R26). -/
def State.setDt (s : State) (b : Byte) : State := { s with dt := b }

/-- `ST <- b` (R27). -/
def State.setSt (s : State) (b : Byte) : State := { s with st := b }

/-- `WAIT <- w` (R28). -/
def State.setWait (s : State) (w : Bool) : State := { s with wait := w }

/-- `WREG <- x` (R28). -/
def State.setWreg (s : State) (x : RegIdx) : State := { s with wreg := x }

/-- `FAULT <- c` (R29). -/
def State.setFault (s : State) (c : BitVec 2) : State := { s with fault := c }

/-- All of `MEM` at once; only `memWrite` uses it. -/
def State.setMem (s : State) (m : Memory) : State := { s with mem := m }

/-- All of `FB` at once; only the display primitives use it. -/
def State.setFb (s : State) (f : FrameBuffer) : State := { s with fb := f }

/-- The model's record of the ports and the host. -/
def State.setEnv (s : State) (e : Env) : State := { s with env := e }

/-- Whether `LoadRom` is still permitted. -/
def State.setLoadable (s : State) (b : Bool) : State := { s with loadable := b }

/-- Hand an output to the host. -/
def State.emit (s : State) (o : Output) : State := { s with outputs := o :: s.outputs }

/-! ### Program counter (R103, R104) -/

/-- The ordinary advance: `PC <- (PC + 2) mod 65536` (R103). -/
def State.advance (s : State) : State := s.setPc (s.pc + 2#16)

/-- "Skip next instruction" when `c` holds: one advance of the skipping instruction's own (R104). -/
def State.skipIf (s : State) (c : Bool) : State := if c then s.advance else s

/-! ### Memory (R50 to R57) -/

/-- What an address that the memory list does not name reads as: the contents after reset (R36, R51). -/
def Memory.unlisted (font : Font) (a : Nat) : Byte :=
  if h : Config.fontBase ≤ a ∧ a < Config.fontBase + Config.fontLen then
    font[a - Config.fontBase]'(by simp at h ⊢; omega)
  else 0

/-- The listed byte at an address, if there is one. -/
def Memory.find : Memory → Nat → Option Byte
  | [], _          => none
  | (b, w) :: m, a => if a = b then some w else Memory.find m a

/-- List a byte, keeping the addresses rising. -/
def Memory.put : Memory → Nat → Byte → Memory
  | [], a, x          => [(a, x)]
  | (b, w) :: m, a, x =>
    if a < b then (a, x) :: (b, w) :: m
    else if a = b then (a, x) :: m
    else (b, w) :: Memory.put m a x

/-- Take an address out of the list. -/
def Memory.drop : Memory → Nat → Memory
  | [], _          => []
  | (b, w) :: m, a => if a = b then Memory.drop m a else (b, w) :: Memory.drop m a

/-- The byte at an address. -/
def Memory.read (font : Font) (m : Memory) (a : Nat) : Byte := (Memory.find m a).getD (Memory.unlisted font a)

/-- Store a byte at an address, keeping the canonical form. -/
def Memory.write (font : Font) (m : Memory) (a : Nat) (x : Byte) : Memory :=
  if x = Memory.unlisted font a then Memory.drop m a else Memory.put m a x

/-- The canonical form: rising addresses of the address space, and no byte that an unlisted address would read as. -/
abbrev Memory.wf (font : Font) (m : Memory) : Prop :=
  m.Pairwise (fun p q => p.1 < q.1) ∧ ∀ p ∈ m, p.1 < Config.memSize ∧ p.2 ≠ Memory.unlisted font p.1

/-- The canonical form of a state's memory. -/
abbrev State.memWf (s : State) : Prop := Memory.wf s.font s.mem

/-- `MemRead(addr, 1)`: the address is reduced modulo 4096 (R52). -/
def State.memRead (s : State) (addr : Nat) : Byte := Memory.read s.font s.mem (addr % Config.memSize)

/-- `MemWrite(addr, 1, x)` (R52). No byte is protected (R57). -/
def State.memWrite (s : State) (addr : Nat) (x : Byte) : State :=
  s.setMem (Memory.write s.font s.mem (addr % Config.memSize) x)

/-- Store bytes at rising addresses, the first at `addr`. -/
def State.memWriteList (s : State) (addr : Nat) : List Byte → State
  | []      => s
  | x :: xs => (s.memWrite addr x).memWriteList (addr + 1) xs

/-- `Fetch(PC)` (R53): big-endian, at any `PC`. -/
def State.fetch (s : State) : Word := wordOfBytes (s.memRead s.pc.toNat) (s.memRead (s.pc.toNat + 1))

/-! ### Faults (R230 to R234) -/

/-- The code of a condition in the `FAULT` latch (R230). -/
def Condition.code : Condition → BitVec 2
  | .stackOverflow  => 1#2
  | .stackUnderflow => 2#2

/-- `raise`: the one state change of fault entry is the `FAULT` latch; `PC` stays on the faulting instruction, nothing is
saved elsewhere and there is no handler (R233). There is no return from a fault (R234, R238). -/
def State.raiseFault (s : State) (c : Condition) : State := s.setFault c.code

/-! ### Call stack (R24, R25) -/

/-- Push a return address: `STACK[SP] <- a`, then `SP <- SP + 1` (R122). -/
def State.push (s : State) (a : Word) : State := (s.setStack s.sp.toNat a).setSp (s.sp + 1#8)

/-- The entry a return reads, `STACK[SP − 1]` (R120); none where `SP − 1` is no entry. -/
def State.top (s : State) : Option Word := s.stack[(s.sp - 1#8).toNat]?

/-! ### Display primitives (R190) -/

/-- `GetPixel(row, col)`: off outside the grid. -/
def State.getPixel (s : State) (row col : Nat) : Bool :=
  if h : row < 32 ∧ col < 64 then (s.fb[row]'h.1)[col]'h.2 else false

/-- `SetPixel(row, col, on)`: nothing outside the grid. -/
def State.setPixel (s : State) (row col : Nat) (on : Bool) : State :=
  if h : row < 32 ∧ col < 64 then
    s.setFb (s.fb.set row ((s.fb[row]'h.1).set col on h.2) h.1)
  else s

/-- `FlipPixel(row, col)`. -/
def State.flipPixel (s : State) (row col : Nat) : State := s.setPixel row col (!s.getPixel row col)

/-- `Clear(on)`. -/
def State.clearDisplay (s : State) (on : Bool) : State := s.setFb (Vector.replicate 32 (Vector.replicate 64 on))

/-! ### Ports (R151, R216, R217, R235): the answer, and the state after asking -/

/-- A free value has been drawn. -/
def Env.draw (e : Env) : Env := { e with drawn := e.drawn + 1 }

/-- `Random8()` (R151): the next answer given, else a free byte. -/
def Env.random8 (e : Env) : Byte × Env :=
  match e.random with
  | r :: rs => (r, { e with random := rs })
  | []      => (Config.randomByte e.drawn, e.draw)

/-- `KeyHeld(k)` for a key of the keypad (R216): the next answer given, else a free Boolean. -/
def Env.askHeld (e : Env) (k : Key) : Bool × Env :=
  match e.held with
  | b :: bs => (b, { e with held := bs })
  | []      => (Config.keyHeld e.drawn k, e.draw)

/-- `KeyHeld(b)` for any byte: a number above 15 is no key, is not held, and the device is not asked (R217). -/
def Env.keyHeld (e : Env) (b : Byte) : Bool × Env :=
  if b.toNat < 16 then e.askHeld (b.setWidth 4) else (false, e)

/-- `KeyReleased()` (R216): the next answer given, else a free choice of a key or none. -/
def Env.keyReleased (e : Env) : Option Key × Env :=
  match e.released with
  | k :: ks => (k, { e with released := ks })
  | []      => (Config.keyReleased e.drawn, e.draw)

/-! ### The host's operations other than `Cycle` -/

/-- One count of a timer: decremented when above 0 (R240). -/
def decTimer (t : Byte) : Byte := if t.toNat > 0 then t - 1#8 else t

/-- `Tick` (R240): both timers count once; a faulted core does nothing (R234). -/
def State.tick (s : State) : State :=
  if s.fault = 0#2 then (s.setDt (decTimer s.dt)).setSt (decTimer s.st) else s

/-- A timer counted down `n` times, stopping at 0 (R240). -/
def countDown (n : Nat) (t : Byte) : Byte := if t = 0#8 then 0#8 else BitVec.ofNat 8 (t.toNat - n)

/-- `n` invocations of `Tick` in a row; a faulted core does nothing (R240, R234). -/
def State.ticks (s : State) (n : Nat) : State :=
  if s.fault = 0#2 then (s.setDt (countDown n s.dt)).setSt (countDown n s.st) else s

/-- `Reset` (R270): every piece of the core's state takes its value of R36. The font parameter, the host, the ports and
what the host got are not the core's and stay (log entry 11). -/
def State.hostReset (s : State) : State :=
  { State.reset with font := s.font, env := s.env, outputs := s.outputs }

/-- `LoadRom(bytes)` (R58, R249): copy the bytes to 0x200, once, at boot. -/
def State.loadRom (s : State) (bytes : List Byte) : Result :=
  if s.loadable = false then .refused .loadRomNotAtBoot
  else if Config.romMax < bytes.length then .refused .romTooLong
  else .next ((s.memWriteList Config.romBase bytes).setLoadable false)

/-- `GetPixel(row, col)` invoked by the host (R242): the answer goes out, nothing else changes. -/
def State.hostGetPixel (s : State) (row col : Nat) : State := s.emit (.pixel row col (s.getPixel row col))

end Sys2Proof.Machine
end

