-- ==== Sys2Proof/Machine/Operands.lean ====
section
/-! DEFINITION. The operand forms of the spec: zero-extended immediates (R83), the one data addressing mode (R176), glyph
addresses (R172), decimal digits (R173), and the base of a sprite (R191). -/

namespace Sys2Proof.Machine

/-- `nnn` as it is written to `PC` or `I`: zero-extended (R83). -/
def addrWord (nnn : Addr) : Word := nnn.setWidth 16

/-- A byte as it is added to a 16-bit register: zero-extended (R171, R127). -/
def byteWord (b : Byte) : Word := b.setWidth 16

/-- A key's number as `V[x]` receives it: zero-extended (R212). -/
def keyByte (k : Key) : Byte := k.setWidth 8

/-- The address of the glyph `b`: `0x050 + 5 * b`, the whole byte used (R172). -/
def glyphAddr (b : Byte) : Word := BitVec.ofNat 16 (Config.fontBase + Config.glyphLen * b.toNat)

/-- The hundreds digit (R173). -/
def hundreds (b : Byte) : Byte := BitVec.ofNat 8 (b.toNat / 100)

/-- The tens digit (R173). -/
def tens (b : Byte) : Byte := BitVec.ofNat 8 (b.toNat / 10 % 10)

/-- The ones digit (R173). -/
def ones (b : Byte) : Byte := BitVec.ofNat 8 (b.toNat % 10)

/-- The base column of a sprite (R191). -/
def baseCol (b : Byte) : Nat := b.toNat % Config.dispW

/-- The base row of a sprite (R191). -/
def baseRow (b : Byte) : Nat := b.toNat % Config.dispH

/-- Column `c` of a sprite byte: the most significant bit is the leftmost pixel (R193). -/
def spriteBit (b : Byte) (c : Nat) : Bool := b.getLsbD (7 - c)

/-- The address of the byte at `I + k`, before the reduction of R52 (R176). -/
def State.dataAddr (s : State) (k : Nat) : Nat := s.i.toNat + k

end Sys2Proof.Machine
end

