-- ==== Sys2Proof/Machine/Alu.lean ====
section
/-! DEFINITION. Register load, arithmetic, logic, shift, random (42_alu.md R140 to R151). Statements run in the order the
rule writes them, and a later read sees an earlier write (R9), which matters where `x` or `y` is 0xF (R153). -/

namespace Sys2Proof.Machine

/-- `V[x] <- b`, then the ordinary advance: the end of every instruction of this family. -/
def State.finishV (s : State) (x : RegIdx) (b : Byte) : State := (s.setV x b).advance

/-- `6xkk` (R140). -/
def execLdByte (x : RegIdx) (kk : Byte) (s : State) : Result := .next (s.finishV x kk)

/-- `7xkk` (R141): wraps, no flag. -/
def execAddByte (x : RegIdx) (kk : Byte) (s : State) : Result := .next (s.finishV x (s.readV x + kk))

/-- `8xy0` (R142). -/
def execLdReg (x y : RegIdx) (s : State) : Result := .next (s.finishV x (s.readV y))

/-- `8xy1` (R143). -/
def execOrReg (x y : RegIdx) (s : State) : Result := .next (s.finishV x (s.readV x ||| s.readV y))

/-- `8xy2` (R144). -/
def execAndReg (x y : RegIdx) (s : State) : Result := .next (s.finishV x (s.readV x &&& s.readV y))

/-- `8xy3` (R145). -/
def execXorReg (x y : RegIdx) (s : State) : Result := .next (s.finishV x (s.readV x ^^^ s.readV y))

/-- `8xy4` (R146): `V[x]` first, VF last. -/
def execAddReg (x y : RegIdx) (s : State) : Result :=
  .next ((s.setV x (s.readV x + s.readV y)).finishV vf (carryFlag (s.readV x) (s.readV y)))

/-- `8xy5` (R147): VF first, then the subtraction reads the registers again. -/
def execSubReg (x y : RegIdx) (s : State) : Result :=
  let t := s.setV vf (notBorrowFlag (s.readV x) (s.readV y))
  .next (t.finishV x (t.readV x - t.readV y))

/-- `8xy6` (R148): copy, flag, shift. -/
def execShrReg (x y : RegIdx) (s : State) : Result :=
  let t := s.setV x (s.readV y)
  let u := t.setV vf (lowBitFlag (t.readV x))
  .next (u.finishV x (u.readV x >>> 1))

/-- `8xy7` (R149): as `8xy5` with the operands exchanged. -/
def execSubnReg (x y : RegIdx) (s : State) : Result :=
  let t := s.setV vf (notBorrowFlag (s.readV y) (s.readV x))
  .next (t.finishV x (t.readV y - t.readV x))

/-- `8xyE` (R150): copy, flag, shift. -/
def execShlReg (x y : RegIdx) (s : State) : Result :=
  let t := s.setV x (s.readV y)
  let u := t.setV vf (highBitFlag (t.readV x))
  .next (u.finishV x (u.readV x <<< 1))

/-- `Cxkk` (R151): one draw of `Random8()`. -/
def execRnd (x : RegIdx) (kk : Byte) (s : State) : Result :=
  .next ((s.setEnv s.env.random8.2).finishV x (s.env.random8.1 &&& kk))

end Sys2Proof.Machine
end

