-- ==== Sys2Proof/Machine/Control.lean ====
section
/-! DEFINITION. Control transfer (41_control.md R120 to R127). -/

namespace Sys2Proof.Machine

/-- `00EE` (R120): the popped address is the call's own, and the ordinary advance follows (R103, conflict C1). -/
def execRet (s : State) : Result :=
  if s.sp = 0#8 then .next (s.raiseFault .stackUnderflow)
  else match s.top with
    | some a => .next ((s.setSp (s.sp - 1#8)).setPc a).advance
    | none   => .fault .stackPointerAbove16

/-- `1nnn` (R121). -/
def execJp (nnn : Addr) (s : State) : Result := .next (s.setPc (addrWord nnn))

/-- `2nnn` (R122): pushes the address of this instruction. -/
def execCall (nnn : Addr) (s : State) : Result :=
  if s.sp = 16#8 then .next (s.raiseFault .stackOverflow)
  else if s.sp.toNat < 16 then .next ((s.push s.pc).setPc (addrWord nnn))
  else .fault .stackPointerAbove16

/-- `3xkk` (R123). -/
def execSeByte (x : RegIdx) (kk : Byte) (s : State) : Result :=
  .next (s.skipIf (s.readV x == kk)).advance

/-- `4xkk` (R124). -/
def execSneByte (x : RegIdx) (kk : Byte) (s : State) : Result :=
  .next (s.skipIf (s.readV x != kk)).advance

/-- `5xy0` (R125). -/
def execSeReg (x y : RegIdx) (s : State) : Result :=
  .next (s.skipIf (s.readV x == s.readV y)).advance

/-- `9xy0` (R126). -/
def execSneReg (x y : RegIdx) (s : State) : Result :=
  .next (s.skipIf (s.readV x != s.readV y)).advance

/-- `Bnnn` (R127): the offset register is always `V[0]`. -/
def execJpV0 (nnn : Addr) (s : State) : Result :=
  .next (s.setPc (byteWord (s.readV 0#4) + addrWord nnn))

end Sys2Proof.Machine
end

