-- ==== Sys2Proof/Machine/Display.lean ====
section
/-! DEFINITION. Display instructions (44_display.md R190 to R193). -/

namespace Sys2Proof.Machine

/-- One set bit of a sprite: VF becomes 1 if the pixel was on, then the pixel is flipped (R193). -/
def State.drawPixel (s : State) (row col : Nat) : State :=
  (if s.getPixel row col then s.setV vf 1#8 else s).flipPixel row col

/-- The first `n` columns of the sprite byte `b` at `(row, col)`, ascending (R193). -/
def State.drawCols (s : State) (b : Byte) (row col : Nat) : Nat → State
  | 0     => s
  | c + 1 => let t := s.drawCols b row col c
             if spriteBit b c then t.drawPixel row (col + c) else t

/-- The first `n` rows of the sprite at `I`, ascending (R193). -/
def State.drawRows (s : State) (row col : Nat) : Nat → State
  | 0     => s
  | r + 1 => let t := s.drawRows row col r
             t.drawCols (t.memRead (t.dataAddr r)) (row + r) col 8

/-- `00E0` (R192). -/
def execCls (s : State) : Result := .next (s.clearDisplay false).advance

/-- `Dxyn` (R193): the coordinates are read before VF is cleared; the base wraps and the body clips (R191). -/
def execDrw (x y : RegIdx) (n : Nibble) (s : State) : Result :=
  .next ((s.setV vf 0#8).drawRows (baseRow (s.readV y)) (baseCol (s.readV x)) n.toNat).advance

end Sys2Proof.Machine
end

