-- ==== Sys2Proof/Machine/IndexMem.lean ====
section
/-! DEFINITION. Index register and memory transfer (43_index_memory.md R170 to R176). -/

namespace Sys2Proof.Machine

/-- `MemWrite(base + k, 1, V[k])` for `k` from 0 to `n − 1`, ascending (R174). -/
def State.storeV (s : State) (base : Nat) : Nat → State
  | 0     => s
  | n + 1 => let t := s.storeV base n
             t.memWrite (base + n) (t.readV (BitVec.ofNat 4 n))

/-- `V[k] <- MemRead(base + k, 1)` for `k` from 0 to `n − 1`, ascending (R175). -/
def State.loadV (s : State) (base : Nat) : Nat → State
  | 0     => s
  | n + 1 => let t := s.loadV base n
             t.setV (BitVec.ofNat 4 n) (t.memRead (base + n))

/-- `I` after a transfer of `V[0]`..`V[x]`: `(I + x + 1) mod 65536` (R174, R175). -/
def State.nextI (s : State) (x : RegIdx) : Word := BitVec.ofNat 16 (s.i.toNat + x.toNat + 1)

/-- `Annn` (R170). -/
def execLdI (nnn : Addr) (s : State) : Result := .next (s.setI (addrWord nnn)).advance

/-- `Fx1E` (R171): 16-bit wrap, no flag. -/
def execAddI (x : RegIdx) (s : State) : Result := .next (s.setI (s.i + byteWord (s.readV x))).advance

/-- `Fx29` (R172). -/
def execLdF (x : RegIdx) (s : State) : Result := .next (s.setI (glyphAddr (s.readV x))).advance

/-- `Fx33` (R173): hundreds, tens, ones at `I`, `I + 1`, `I + 2`. -/
def execLdB (x : RegIdx) (s : State) : Result :=
  let b := s.readV x
  .next (s.memWriteList (s.dataAddr 0) [hundreds b, tens b, ones b]).advance

/-- `Fx55` (R174): the addresses use the `I` of entry; `I` is updated after the last write. -/
def execStoreRegs (x : RegIdx) (s : State) : Result :=
  .next ((s.storeV (s.dataAddr 0) (x.toNat + 1)).setI (s.nextI x)).advance

/-- `Fx65` (R175): the addresses use the `I` of entry; `I` is updated after the last read. -/
def execLoadRegs (x : RegIdx) (s : State) : Result :=
  .next ((s.loadV (s.dataAddr 0) (x.toNat + 1)).setI (s.nextI x)).advance

end Sys2Proof.Machine
end

