-- ==== Sys2Proof/Machine/InputTimers.lean ====
section
/-! DEFINITION. Keypad and timer instructions (45_input_timers.md R210 to R215). -/

namespace Sys2Proof.Machine

/-- `Ex9E` (R210). -/
def execSkp (x : RegIdx) (s : State) : Result :=
  .next ((s.setEnv (s.env.keyHeld (s.readV x)).2).skipIf (s.env.keyHeld (s.readV x)).1).advance

/-- `ExA1` (R211). -/
def execSknp (x : RegIdx) (s : State) : Result :=
  .next ((s.setEnv (s.env.keyHeld (s.readV x)).2).skipIf (!(s.env.keyHeld (s.readV x)).1)).advance

/-- The effect of an answer of `KeyReleased()` on `Fx0A` (R212): a key ends the wait and is followed by the ordinary
advance; none leaves the CPU blocked, `PC` on this instruction. -/
def State.receiveKey (s : State) (x : RegIdx) : Option Key → State
  | some k => ((s.setV x (keyByte k)).setWait false).advance
  | none   => (s.setWait true).setWreg x

/-- `Fx0A` (R212): one query in every `Cycle` that executes it. -/
def execWaitKey (x : RegIdx) (s : State) : Result :=
  .next ((s.setEnv s.env.keyReleased.2).receiveKey x s.env.keyReleased.1)

/-- `Fx07` (R213). -/
def execLdVxDT (x : RegIdx) (s : State) : Result := .next (s.setV x s.dt).advance

/-- `Fx15` (R214). -/
def execLdDT (x : RegIdx) (s : State) : Result := .next (s.setDt (s.readV x)).advance

/-- `Fx18` (R215). -/
def execLdST (x : RegIdx) (s : State) : Result := .next (s.setSt (s.readV x)).advance

end Sys2Proof.Machine
end

