-- ==== Sys2Proof/Machine/Unmatched.lean ====
section
/-! DEFINITION. The unmatched opcode (40_cycle.md R107). -/

namespace Sys2Proof.Machine

/-- Row `UNIMPL` (R107): `Report(PC, op)` and the ordinary advance. -/
def execUnimpl (op : Word) (s : State) : Result := .next (s.emit (.report s.pc op)).advance

end Sys2Proof.Machine
end

