-- ==== Sys2Proof/Machine/Cycle.lean ====
section
/-! DEFINITION. The operation `Cycle` (40_cycle.md R100) and the host's choice of the next operation
(70_reset_and_hazards.md R273, R278). -/

namespace Sys2Proof.Machine

/-- `Cycle` (R100): a faulted core does nothing (step 0, R106), else fetch, decode and run one instruction. From the first
`Cycle` on, `LoadRom` is no longer permitted (R58). -/
def State.cycle (s : State) : Result :=
  if s.fault = 0#2 then exec (decodeWord s.fetch) (s.setLoadable false) else .next s

/-- One operation of the host (R10, R273). -/
def State.perform (s : State) : HostOp → Result
  | .cycle            => s.cycle
  | .tick             => .next s.tick
  | .getPixel row col => .next (s.hostGetPixel row col)
  | .reset            => .next s.hostReset
  | .loadRom bytes    => s.loadRom bytes

/-- The host takes its next operation from its list. -/
def State.withOps (s : State) (ops : List HostOp) : State := s.setEnv { s.env with ops := ops }

/-- The host, with nothing listed, invokes `Tick` a free number of times (R278). DESIGN CHOICE, log entry 5. -/
def State.freeTicks (s : State) : State :=
  (s.ticks (Config.ticksBefore s.env.drawn)).setEnv s.env.draw

/-- The host's next operation: the one listed first, or, with nothing listed, a free number of `Tick`s and a `Cycle`. -/
def State.nextOperation (s : State) : Result :=
  match s.env.ops with
  | op :: ops => (s.withOps ops).perform op
  | []        => s.freeTicks.cycle

/-- Place bytes where the next `Cycle` fetches, and have the host invoke that `Cycle` next, on a core that is not
faulted. -/
def State.placeNext (s : State) (bytes : List Byte) : State :=
  ((s.memWriteList s.pc.toNat bytes).setFault 0#2).withOps (.cycle :: s.env.ops)

end Sys2Proof.Machine
end

