-- ==== Sys2Proof/Machine/Step.lean ====
section
/-! DEFINITION. One step: the host's next operation on the core (R10). -/

namespace Sys2Proof.Machine

/-- One step of the machine: one operation of the host, or a free number of `Tick`s and a `Cycle` where the host's
list is empty (R273, R278). -/
def step (s : State) : Host.Outcome State Fault Refusal := s.nextOperation

/-- `s` with the instruction of `nbits` bits `w` at `PC`, and a `Cycle` on an unfaulted core as the host's next
operation. -/
def State.withFetchWord (s : State) (nbits w : Nat) : State := s.placeNext (tableBytes nbits w)

end Sys2Proof.Machine
end

