-- ==== Sys2Proof/Safety.lean ====
section
/-! DEFINITION. The terms claims use: the invariants of 10_state.md R37, a parked core (R277), what an instruction leaves
unchanged, and the sprite that `Dxyn` draws (R193). -/

namespace Sys2Proof.Machine

/-! ### Invariants (R37) -/

/-- What holds in every state a run from `Reset` reaches (R37), for every instruction, tick and host operation. -/
structure State.Inv (s : State) : Prop where
  /-- `SP` never exceeds 16 (R25). -/
  sp_le : s.sp.toNat ≤ 16
  /-- `FAULT` is 0, 1 or 2 (R29). -/
  fault_ne : s.fault ≠ 3#2
  /-- Memory keeps its canonical form. -/
  mem_wf : s.memWf
  /-- A blocked CPU is not faulted, its program can no longer be replaced, and it stands on its `Fx0A`, whose `x` is
  `WREG` (R28, R37). -/
  wait_ok : s.wait = true → s.fault = 0#2 ∧ s.loadable = false ∧ decodeWord s.fetch = .waitKey s.wreg

/-- No fault is latched: the run has not ended in an error (R234, R277). -/
def State.Unfaulted (s : State) : Prop := s.fault = 0#2

/-- Parked at `a` (R277): running, not faulted, and the word at `PC = a` is the jump to `a` itself. -/
def State.ParkedAt (s : State) (a : Addr) : Prop :=
  s.pc = addrWord a ∧ s.wait = false ∧ s.fault = 0#2 ∧ decodeWord s.fetch = .jp a

/-! ### Frames -/

/-- The parts of the state other than the general registers and `PC`. -/
inductive Part where
  | index | stack | sp | delay | sound | wait | wreg | fault | memory | display | font | loadable | env | outputs
  deriving DecidableEq, Repr

/-- Two states agree in a part; memory by the byte at every address, the display by every pixel. -/
def Part.same (s t : State) : Part → Prop
  | .index    => t.i = s.i
  | .stack    => t.stack = s.stack
  | .sp       => t.sp = s.sp
  | .delay    => t.dt = s.dt
  | .sound    => t.st = s.st
  | .wait     => t.wait = s.wait
  | .wreg     => t.wreg = s.wreg
  | .fault    => t.fault = s.fault
  | .memory   => ∀ a, t.memRead a = s.memRead a
  | .display  => ∀ row col, t.getPixel row col = s.getPixel row col
  | .font     => t.font = s.font
  | .loadable => t.loadable = s.loadable
  | .env      => t.env = s.env
  | .outputs  => t.outputs = s.outputs

/-- From `s` to `t` nothing changes but `PC`, the registers `regs` and the parts `parts`. -/
def ChangesOnly (s t : State) (regs : List RegIdx) (parts : List Part) : Prop :=
  (∀ r, r ∉ regs → t.readV r = s.readV r) ∧ ∀ p, p ∉ parts → p.same s t

/-! ### The sprite of `Dxyn` (R193) -/

/-- Bit `c` of sprite row `r` at `I`. -/
def State.spriteAt (s : State) (r c : Nat) : Bool := spriteBit (s.memRead (s.dataAddr r)) c

/-- A set bit of the first `n` sprite rows, drawn with its corner at `(row, col)`, falls on a pixel that is on. -/
def State.collides (s : State) (row col n : Nat) : Prop :=
  ∃ r < n, ∃ c < 8, s.spriteAt r c = true ∧ s.getPixel (row + r) (col + c) = true

/-- The sprite of `n` rows, drawn with its corner at `(row, col)`, has a set bit at the pixel `(r, c)` of the grid: bits
outside the grid are clipped, never wrapped (R191). -/
abbrev State.spriteCovers (s : State) (row col n r c : Nat) : Prop :=
  row ≤ r ∧ r < row + n ∧ col ≤ c ∧ c < col + 8 ∧ s.spriteAt (r - row) (c - col) = true ∧ r < 32 ∧ c < 64

end Sys2Proof.Machine
end

