-- ==== Sys2Proof/Certificates/Slice0/Obligations.lean ====
section
/-! DEFINITION. The statements for the provers, each named after what it states and citing the rule it formalises. -/

open Sys2Proof Sys2Proof.Machine

/-! ## Encoding (30_encoding.md) -/

/-- Decoding an encoded well-formed instruction gives it back, with every operand at every value, and reads exactly its two
bytes (R80 to R85).
Rests on the spec's own decision D5 (92_eei_decisions.md). -/
def Obligations.DecodeOfEncodeIsIdentity : Prop :=
  ∀ (i : Instr) (rest : List Byte), i.wellFormed = true →
    decodeWord (encode i) = i ∧ decodeBytes (bytesOfWord (encode i) ++ rest) = .ok (i, rest)

/-- Every word has one meaning: encoding what it decodes to gives the word back, and the decoder gives only well-formed
instructions (R81, R87).
Rests on the spec's own decision D5 (92_eei_decisions.md). -/
def Obligations.EncodeOfDecodeIsIdentity : Prop :=
  ∀ op : Word, encode (decodeWord op) = op ∧ (decodeWord op).wellFormed = true

/-- A word is the instruction of the one row whose mask and match it fits; the rows are disjoint; a word that fits no row is
unmatched (R85).
Rests on the spec's own decision D5 (92_eei_decisions.md). -/
def Obligations.DecodedInstructionIsOfTheOnlyMatchingRow : Prop :=
  (∀ (op : Word) (r : OpRow), r ∈ opTable → r.covers op = true → (decodeWord op).row = r) ∧
  (∀ (op : Word) (r r' : OpRow), r ∈ opTable → r' ∈ opTable → r.covers op = true → r'.covers op = true → r = r') ∧
  (∀ op : Word, (∀ r ∈ opTable, r.covers op = false) → decodeWord op = .unimpl op)

/-- The fields overlap as R81 says: `kk = y ++ n`, `nnn = x ++ y ++ n = x ++ kk`, and `top`, `x`, `y`, `n` are the whole
word. -/
def Obligations.FieldsOverlapAsConcatenations : Prop :=
  ∀ op : Word,
    fieldKk op = fieldY op ++ fieldN op ∧
    fieldNnn op = fieldX op ++ fieldY op ++ fieldN op ∧
    fieldNnn op = fieldX op ++ fieldKk op ∧
    op = fieldTop op ++ fieldX op ++ fieldY op ++ fieldN op

/-- Words written out from the patterns decode to the instructions they stand for (95_test_vectors.md section 7).
Rests on the spec's own decision D5 (92_eei_decisions.md). -/
def Obligations.SampleWordsDecode : Prop :=
  decodeWord 0x00EE#16 = .ret ∧ decodeWord 0x2ABC#16 = .call 0xABC#12 ∧ decodeWord 0x6A05#16 = .ldByte 0xA#4 0x05#8 ∧
  decodeWord 0x8AB4#16 = .addReg 0xA#4 0xB#4 ∧ decodeWord 0xDAB5#16 = .drw 0xA#4 0xB#4 0x5#4 ∧
  decodeWord 0xFA65#16 = .loadRegs 0xA#4 ∧ decodeWord 0x5AB1#16 = .unimpl 0x5AB1#16

/-! ## The cycle, the host's operations, faults (20_memory.md, 40_cycle.md, 60_exceptions.md, 70_reset_and_hazards.md) -/

/-- A step runs the decoded instruction: on a core that is not faulted, a listed `Cycle` is `exec` of the word at `PC`
(R100), on the state without that list entry and with `LoadRom` no longer permitted; with nothing listed the same happens
after the free number of `Tick`s. In every state `freeTicks` is that many invocations of `tick`, with the count of free
values one higher and nothing else changed.
The list of the host's operations, and the free number of `Tick`s and the `Cycle` where it is empty, are the model's choice
(log entry 5); so is the field `loadable` that says when `LoadRom` is permitted (log entry 9).
Rests on the spec's own decisions D1, D10, D18 and D21 (92_eei_decisions.md). -/
def Obligations.StepRunsDecodedInstruction : Prop :=
  ∀ s : State,
    s.freeTicks = { State.tick^[Config.ticksBefore s.env.drawn] s with
      env := { s.env with drawn := s.env.drawn + 1 } } ∧
    ∀ i : Instr, s.fault = 0#2 → decodeWord s.fetch = i →
      (∀ ops, s.env.ops = .cycle :: ops →
        step s = exec i { s with env := { s.env with ops := ops }, loadable := false }) ∧
      (s.env.ops = [] → step s = exec i { s.freeTicks with loadable := false })

/-- `withFetchWord` places the word at `PC`, so that it is the next one fetched, and the next step runs the instruction the
decoder reads from it.
`withFetchWord` is the model's own operation and the model's choice (log entry 12): no rule of the spec names it.
The list of the host's operations is the model's choice of log entry 5, the field `loadable` that of log entry 9.
Rests on the spec's own decision D1 (92_eei_decisions.md). -/
def Obligations.PlacedWordRunsNext : Prop :=
  ∀ (s : State) (op : Word),
    (s.withFetchWord 16 op.toNat).fetch = op ∧
    step (s.withFetchWord 16 op.toNat) =
      exec (decodeWord op) (((s.withFetchWord 16 op.toNat).withOps s.env.ops).setLoadable false)

/-- `Fetch` is big-endian at any `PC`, each byte's address reduced modulo 4096 (R53).
Rests on the spec's own decisions D3 and D4 (92_eei_decisions.md). -/
def Obligations.FetchIsBigEndian : Prop :=
  ∀ s : State,
    s.fetch.toNat = (s.memRead s.pc.toNat).toNat * 256 + (s.memRead (s.pc.toNat + 1)).toNat ∧
    (∀ a, s.memRead a = s.memRead (a % 4096))

/-- While a fault is latched `Cycle` and `Tick` change nothing of the core, `GetPixel` still answers from the frozen
framebuffer, and no operation but `Reset` changes `FAULT` (R106, R234).
The list of the host's operations and the record of the answers are the model's choice (log entries 5 and 10).
Rests on the spec's own decisions D9 and D10 (92_eei_decisions.md). -/
def Obligations.FaultedCoreIsFrozenUntilReset : Prop :=
  ∀ s : State, s.fault ≠ 0#2 →
    s.cycle = .next s ∧ s.tick = s ∧
    (∀ ops, s.env.ops = .cycle :: ops → step s = .next (s.withOps ops)) ∧
    (∀ ops, s.env.ops = .tick :: ops → step s = .next (s.withOps ops)) ∧
    (∀ ops row col, s.env.ops = .getPixel row col :: ops →
      step s = .next ((s.withOps ops).emit (.pixel row col (s.getPixel row col)))) ∧
    (∀ ops t, s.env.ops = .reset :: ops → step s = .next t → t.fault = 0#2) ∧
    (∀ t, (∀ ops, s.env.ops ≠ .reset :: ops) → step s = .next t → t.fault = s.fault)

/-- Fault entry is one state change: an instruction that changes `FAULT` changes nothing else, and it is `2nnn` at
`SP = 16` (code 1) or `00EE` at `SP = 0` (code 2) (R230, R233).
Rests on the spec's own decision D9 (92_eei_decisions.md). -/
def Obligations.FaultEntryChangesOnlyTheLatch : Prop :=
  ∀ (i : Instr) (s t : State), exec i s = .next t → t.fault ≠ s.fault →
    t = s.setFault t.fault ∧
    ((∃ nnn, i = .call nnn ∧ s.sp = 16#8 ∧ t.fault = 1#2) ∨ (i = .ret ∧ s.sp = 0#8 ∧ t.fault = 2#2))

/-- `Reset` puts every piece of the core's state at its value of R36, for every `FONT`; it may come at any time, also after
a fault or while blocked (R270). `LoadRom` is permitted again (R271), which the model says by its field `loadable` (log
entry 9). That the font, the ports' record, the rest of the host's list and the outputs stay is the model's choice (log
entry 11).
Rests on the spec's own decision D11 (92_eei_decisions.md). -/
def Obligations.ResetLeavesInitialState : Prop :=
  ∀ (s : State) (ops : List HostOp), s.env.ops = .reset :: ops → ∃ t, step s = .next t ∧
    (∀ x, t.readV x = 0#8) ∧ t.i = 0#16 ∧ t.pc = 0x0200#16 ∧ (∀ k < 16, t.stack[k]? = some 0#16) ∧ t.sp = 0#8 ∧
    t.dt = 0#8 ∧ t.st = 0#8 ∧ t.wait = false ∧ t.wreg = 0#4 ∧ t.fault = 0#2 ∧
    (∀ row col, t.getPixel row col = false) ∧
    (∀ j (h : j < 80), t.memRead (0x050 + j) = s.font[j]) ∧
    (∀ a < 4096, ¬ (0x050 ≤ a ∧ a < 0x0A0) → t.memRead a = 0#8) ∧
    t.loadable = true ∧ t.font = s.font ∧ t.outputs = s.outputs ∧ t.env = { s.env with ops := ops }

/-- The state the machine starts in is the one `Reset` leaves: the values R36 gives.
Rests on the spec's own decision D11 (92_eei_decisions.md). -/
def Obligations.MachineStartsAtReset : Prop :=
  Sys2Proof.core.reset = State.reset ∧
  (∀ x, State.reset.readV x = 0#8) ∧ State.reset.i = 0#16 ∧ State.reset.pc = 0x0200#16 ∧
  (∀ k < 16, State.reset.stack[k]? = some 0#16) ∧ State.reset.sp = 0#8 ∧ State.reset.dt = 0#8 ∧ State.reset.st = 0#8 ∧
  State.reset.wait = false ∧ State.reset.wreg = 0#4 ∧ State.reset.fault = 0#2 ∧
  (∀ row col, State.reset.getPixel row col = false) ∧
  (∀ j (h : j < 80), State.reset.memRead (0x050 + j) = State.reset.font[j]) ∧
  (∀ a < 4096, ¬ (0x050 ≤ a ∧ a < 0x0A0) → State.reset.memRead a = 0#8)

/-- `Tick` decrements each timer that is above 0 and stops at 0; it reads and writes nothing else, also while blocked on a
key; a faulted core does nothing (R240). The step is the operation `tick`, without the list entry: the list of the host's
operations is the model's choice (log entry 5).
Rests on the spec's own decision D10 (92_eei_decisions.md). -/
def Obligations.TickCountsTimersDown : Prop :=
  ∀ (s : State) (ops : List HostOp), s.env.ops = .tick :: ops → ∃ t, step s = .next t ∧ t.pc = s.pc ∧
    t = { s.tick with env := { s.env with ops := ops } } ∧ ChangesOnly s t [] [.delay, .sound, .env] ∧
    t.env = { s.env with ops := ops } ∧
    (s.fault = 0#2 → t.dt.toNat = s.dt.toNat - 1 ∧ t.st.toNat = s.st.toNat - 1) ∧
    (s.fault ≠ 0#2 → t.dt = s.dt ∧ t.st = s.st)

/-- At boot `LoadRom` copies at most 3584 bytes to 0x200 and changes no other byte, no register and nothing else of the core
(R58), and leaves the ports' record and the rest of the host's list alone; it is then no longer permitted, and a second or
late one is refused. The field `loadable` and that refusal are the model's choice for what the host never does (log entry
9); the list of the host's operations is the model's choice of log entry 5.
Rests on the spec's own decision D18 (92_eei_decisions.md). -/
def Obligations.LoadRomCopiesTheProgramOnce : Prop :=
  ∀ (s : State) (bytes : List Byte) (ops : List HostOp), s.env.ops = .loadRom bytes :: ops →
    (s.loadable = true → bytes.length ≤ 3584 → ∃ t, step s = .next t ∧ t.pc = s.pc ∧
      (∀ j (h : j < bytes.length), t.memRead (0x200 + j) = bytes[j]) ∧
      (∀ a < 4096, ¬ (0x200 ≤ a ∧ a < 0x200 + bytes.length) → t.memRead a = s.memRead a) ∧
      ChangesOnly s t [] [.memory, .loadable, .env] ∧ t.loadable = false ∧ t.env = { s.env with ops := ops }) ∧
    (s.loadable = false → step s = .refused .loadRomNotAtBoot)

/-- A ROM longer than 3584 bytes has no meaning: the launch is refused, nothing is truncated, wrapped or faulted (R249).
The field `loadable` is the model's choice (log entry 9), and the list of the host's operations that of log entry 5.
Rests on the spec's own decision D18 (92_eei_decisions.md). -/
def Obligations.TooLongRomIsRefused : Prop :=
  ∀ (s : State) (bytes : List Byte) (ops : List HostOp), s.env.ops = .loadRom bytes :: ops → s.loadable = true →
    3584 < bytes.length → step s = .refused .romTooLong

/-- `GetPixel` answers the framebuffer's bit, 0 outside the grid, and changes nothing of the core (R190, R242), nor
of the ports' record and the rest of the host's list. That list and the record of the answers are the model's choice (log
entries 5 and 10).
Rests on the spec's own decision D1 (92_eei_decisions.md). -/
def Obligations.GetPixelAnswersAndChangesNothing : Prop :=
  ∀ (s : State) (row col : Nat) (ops : List HostOp), s.env.ops = .getPixel row col :: ops → ∃ t, step s = .next t ∧
    t.pc = s.pc ∧ ChangesOnly s t [] [.env, .outputs] ∧ t.env = { s.env with ops := ops } ∧
    (∀ (hr : row < 32) (hc : col < 64), t.outputs = .pixel row col s.fb[row][col] :: s.outputs) ∧
    (¬ (row < 32 ∧ col < 64) → t.outputs = .pixel row col false :: s.outputs)

/-- An unmatched word is reported, advances `PC` by 2 and changes nothing else (R107).
The record of the reports is the model's choice (log entry 10).
Rests on the spec's own decision D17 (92_eei_decisions.md). -/
def Obligations.UnmatchedWordIsReportedNoOp : Prop :=
  ∀ (op : Word) (s : State), encode (.unimpl op) = op ∧ ∃ t, exec (.unimpl op) s = .next t ∧ t.pc = s.pc + 2#16 ∧
    ChangesOnly s t [] [.outputs] ∧ t.outputs = .report s.pc op :: s.outputs

/-! ## Control transfer (41_control.md) -/

/-- `1nnn` and `Bnnn` load `PC`, modulo 65536, and change nothing else (R121, R127).
Rests on the spec's own decisions D3 and D4 (92_eei_decisions.md). -/
def Obligations.JumpsLoadPc : Prop :=
  ∀ (nnn : Addr) (s : State),
    encode (.jp nnn) = 0x1#4 ++ nnn ∧ encode (.jpV0 nnn) = 0xB#4 ++ nnn ∧
    (∃ t, exec (.jp nnn) s = .next t ∧ t.pc.toNat = nnn.toNat ∧ ChangesOnly s t [] []) ∧
    (∃ t, exec (.jpV0 nnn) s = .next t ∧ t.pc.toNat = ((s.readV 0#4).toNat + nnn.toNat) % 65536 ∧ ChangesOnly s t [] [])

/-- `2nnn` pushes its own address and jumps; at `SP = 16` it raises StackOverflow with no other effect (R122, R231).
Rests on the spec's own decisions D2, D9 and D16 (92_eei_decisions.md). -/
def Obligations.CallPushesItsOwnAddress : Prop :=
  ∀ (nnn : Addr) (s : State), encode (.call nnn) = 0x2#4 ++ nnn ∧
    (s.sp.toNat < 16 → ∃ t, exec (.call nnn) s = .next t ∧ t.pc.toNat = nnn.toNat ∧ t.sp.toNat = s.sp.toNat + 1 ∧
      (∀ k, t.stack[k]? = if k = s.sp.toNat then some s.pc else s.stack[k]?) ∧ ChangesOnly s t [] [.stack, .sp]) ∧
    (s.sp.toNat = 16 → ∃ t, exec (.call nnn) s = .next t ∧ t.fault = 1#2 ∧ t.pc = s.pc ∧ ChangesOnly s t [] [.fault])

/-- `00EE` pops the top entry, which stays in the stack, and ends two bytes after it; at `SP = 0` it raises StackUnderflow
with no other effect (R120, R232).
Rests on the spec's own decisions D2 and D9 (92_eei_decisions.md). -/
def Obligations.ReturnGoesPastTheCall : Prop :=
  ∀ s : State, encode .ret = 0x00EE#16 ∧
    (∀ (h0 : 0 < s.sp.toNat) (h16 : s.sp.toNat ≤ 16), ∃ t, exec .ret s = .next t ∧ t.sp.toNat = s.sp.toNat - 1 ∧
      t.pc = s.stack[s.sp.toNat - 1] + 2#16 ∧ ChangesOnly s t [] [.sp]) ∧
    (s.sp.toNat = 0 → ∃ t, exec .ret s = .next t ∧ t.fault = 2#2 ∧ t.pc = s.pc ∧ ChangesOnly s t [] [.fault])

/-- Where `SP` is above 16 there is no stack entry to use, and `2nnn` and `00EE` stop by name: the model's choice for states
that no run reaches (R25; log entry 8). -/
def Obligations.StackPointerAbove16Stops : Prop :=
  ∀ (nnn : Addr) (s : State), 16 < s.sp.toNat →
    exec (.call nnn) s = .fault .stackPointerAbove16 ∧ exec .ret s = .fault .stackPointerAbove16

/-- A return right after its call lands on the instruction after the call, whatever the subroutine did to the registers,
memory and display (R103, R120, R122).
Rests on the spec's own decision D2 (92_eei_decisions.md). -/
def Obligations.ReturnUndoesCall : Prop :=
  ∀ (nnn : Addr) (s t u : State), s.sp.toNat < 16 → exec (.call nnn) s = .next t → u.stack = t.stack → u.sp = t.sp →
    ∃ w, exec .ret u = .next w ∧ w.pc = s.pc + 2#16 ∧ w.sp = s.sp

/-- The four register skips end at `PC + 4` when their condition holds, at `PC + 2` when not, and change nothing else (R123
to R126). -/
def Obligations.RegisterSkips : Prop :=
  ∀ (x y : RegIdx) (kk : Byte) (s : State),
    encode (.seByte x kk) = 0x3#4 ++ x ++ kk ∧ encode (.sneByte x kk) = 0x4#4 ++ x ++ kk ∧
    encode (.seReg x y) = 0x5#4 ++ x ++ y ++ 0x0#4 ∧ encode (.sneReg x y) = 0x9#4 ++ x ++ y ++ 0x0#4 ∧
    (∃ t, exec (.seByte x kk) s = .next t ∧ ChangesOnly s t [] [] ∧
      t.pc = if s.readV x = kk then s.pc + 4#16 else s.pc + 2#16) ∧
    (∃ t, exec (.sneByte x kk) s = .next t ∧ ChangesOnly s t [] [] ∧
      t.pc = if s.readV x = kk then s.pc + 2#16 else s.pc + 4#16) ∧
    (∃ t, exec (.seReg x y) s = .next t ∧ ChangesOnly s t [] [] ∧
      t.pc = if s.readV x = s.readV y then s.pc + 4#16 else s.pc + 2#16) ∧
    (∃ t, exec (.sneReg x y) s = .next t ∧ ChangesOnly s t [] [] ∧
      t.pc = if s.readV x = s.readV y then s.pc + 2#16 else s.pc + 4#16)

/-! ## Register load, arithmetic, logic, shift, random (42_alu.md) -/

/-- `6xkk`, `7xkk` and `8xy0` write `V[x]` and nothing else; the sum wraps modulo 256 and sets no flag (R140 to R142). -/
def Obligations.LoadsAndAddByteWriteOneRegister : Prop :=
  ∀ (x y : RegIdx) (kk : Byte) (s : State),
    encode (.ldByte x kk) = 0x6#4 ++ x ++ kk ∧ encode (.addByte x kk) = 0x7#4 ++ x ++ kk ∧
    encode (.ldReg x y) = 0x8#4 ++ x ++ y ++ 0x0#4 ∧
    (∃ t, exec (.ldByte x kk) s = .next t ∧ t.readV x = kk ∧ t.pc = s.pc + 2#16 ∧ ChangesOnly s t [x] []) ∧
    (∃ t, exec (.addByte x kk) s = .next t ∧ (t.readV x).toNat = ((s.readV x).toNat + kk.toNat) % 256 ∧
      t.pc = s.pc + 2#16 ∧ ChangesOnly s t [x] []) ∧
    (∃ t, exec (.ldReg x y) s = .next t ∧ t.readV x = s.readV y ∧ t.pc = s.pc + 2#16 ∧ ChangesOnly s t [x] [])

/-- `8xy1`, `8xy2`, `8xy3` write the bitwise result to `V[x]` and nothing else: VF is unchanged unless it is `V[x]` (R143 to
R145).
Rests on the spec's own decision D20 (92_eei_decisions.md). -/
def Obligations.LogicWritesOneRegisterAndNoFlag : Prop :=
  ∀ (x y : RegIdx) (s : State),
    encode (.orReg x y) = 0x8#4 ++ x ++ y ++ 0x1#4 ∧ encode (.andReg x y) = 0x8#4 ++ x ++ y ++ 0x2#4 ∧
    encode (.xorReg x y) = 0x8#4 ++ x ++ y ++ 0x3#4 ∧
    (∃ t, exec (.orReg x y) s = .next t ∧ t.pc = s.pc + 2#16 ∧ ChangesOnly s t [x] [] ∧
      ∀ k < 8, (t.readV x).getLsbD k = ((s.readV x).getLsbD k || (s.readV y).getLsbD k)) ∧
    (∃ t, exec (.andReg x y) s = .next t ∧ t.pc = s.pc + 2#16 ∧ ChangesOnly s t [x] [] ∧
      ∀ k < 8, (t.readV x).getLsbD k = ((s.readV x).getLsbD k && (s.readV y).getLsbD k)) ∧
    (∃ t, exec (.xorReg x y) s = .next t ∧ t.pc = s.pc + 2#16 ∧ ChangesOnly s t [x] [] ∧
      ∀ k < 8, (t.readV x).getLsbD k = ((s.readV x).getLsbD k ^^ (s.readV y).getLsbD k))

/-- `8xy4`: VF ends as the carry of the old operands, for all `x` and `y`, and `V[x]` as the sum modulo 256 unless it is VF
(R146). -/
def Obligations.AddSetsCarry : Prop :=
  ∀ (x y : RegIdx) (s : State), encode (.addReg x y) = 0x8#4 ++ x ++ y ++ 0x4#4 ∧
    ∃ t, exec (.addReg x y) s = .next t ∧ t.pc = s.pc + 2#16 ∧
    t.readV vf = (if (s.readV x).toNat + (s.readV y).toNat > 255 then 1#8 else 0#8) ∧
    (x ≠ vf → (t.readV x).toNat = ((s.readV x).toNat + (s.readV y).toNat) % 256) ∧ ChangesOnly s t [x, vf] []

/-- `8xy5`: the not-borrow flag is written first and the subtraction reads the registers again, in every case of `x` and `y`
being VF (R147).
Rests on the spec's own decision D7 (92_eei_decisions.md). -/
def Obligations.SubtractSetsNotBorrowFirst : Prop :=
  ∀ (x y : RegIdx) (s : State), encode (.subReg x y) = 0x8#4 ++ x ++ y ++ 0x5#4 ∧
    ∃ t, exec (.subReg x y) s = .next t ∧ t.pc = s.pc + 2#16 ∧ ChangesOnly s t [x, vf] [] ∧
    ∀ f : Nat, (f = if (s.readV y).toNat > (s.readV x).toNat then 0 else 1) →
      (x ≠ vf → (t.readV vf).toNat = f) ∧
      (x ≠ vf → y ≠ vf → (t.readV x).toNat = ((s.readV x).toNat + 256 - (s.readV y).toNat) % 256) ∧
      (x = vf → y ≠ vf → (t.readV vf).toNat = (f + 256 - (s.readV y).toNat) % 256) ∧
      (x ≠ vf → y = vf → (t.readV x).toNat = ((s.readV x).toNat + 256 - f) % 256) ∧
      (x = vf → y = vf → (t.readV vf).toNat = 0)

/-- `8xy7`: as `8xy5` with the operands exchanged (R149).
Rests on the spec's own decision D7 (92_eei_decisions.md). -/
def Obligations.ReverseSubtractSetsNotBorrowFirst : Prop :=
  ∀ (x y : RegIdx) (s : State), encode (.subnReg x y) = 0x8#4 ++ x ++ y ++ 0x7#4 ∧
    ∃ t, exec (.subnReg x y) s = .next t ∧ t.pc = s.pc + 2#16 ∧ ChangesOnly s t [x, vf] [] ∧
    ∀ f : Nat, (f = if (s.readV x).toNat > (s.readV y).toNat then 0 else 1) →
      (x ≠ vf → (t.readV vf).toNat = f) ∧
      (x ≠ vf → y ≠ vf → (t.readV x).toNat = ((s.readV y).toNat + 256 - (s.readV x).toNat) % 256) ∧
      (x = vf → y ≠ vf → (t.readV vf).toNat = ((s.readV y).toNat + 256 - f) % 256) ∧
      (x ≠ vf → y = vf → (t.readV x).toNat = (f + 256 - (s.readV x).toNat) % 256) ∧
      (x = vf → y = vf → (t.readV vf).toNat = 0)

/-- `8xy6`: the operand shifted is the old `V[y]`; VF is its low bit; with `x = 0xF` VF ends as 0 (R148).
Rests on the spec's own decision D7 (92_eei_decisions.md). -/
def Obligations.ShiftRightHalvesTheCopiedOperand : Prop :=
  ∀ (x y : RegIdx) (s : State), encode (.shrReg x y) = 0x8#4 ++ x ++ y ++ 0x6#4 ∧
    ∃ t, exec (.shrReg x y) s = .next t ∧ t.pc = s.pc + 2#16 ∧ ChangesOnly s t [x, vf] [] ∧
    (x ≠ vf → (t.readV x).toNat = (s.readV y).toNat / 2 ∧ (t.readV vf).toNat = (s.readV y).toNat % 2) ∧
    (x = vf → t.readV vf = 0#8)

/-- `8xyE`: the operand shifted is the old `V[y]`; VF is its high bit; with `x = 0xF` VF ends as twice that bit (R150).
Rests on the spec's own decision D7 (92_eei_decisions.md). -/
def Obligations.ShiftLeftDoublesTheCopiedOperand : Prop :=
  ∀ (x y : RegIdx) (s : State), encode (.shlReg x y) = 0x8#4 ++ x ++ y ++ 0xE#4 ∧
    ∃ t, exec (.shlReg x y) s = .next t ∧ t.pc = s.pc + 2#16 ∧ ChangesOnly s t [x, vf] [] ∧
    (x ≠ vf → (t.readV x).toNat = 2 * (s.readV y).toNat % 256 ∧ (t.readV vf).toNat = (s.readV y).toNat / 128) ∧
    (x = vf → (t.readV vf).toNat = 2 * ((s.readV y).toNat / 128))

/-- `Cxkk` takes one draw of `Random8()` and writes it ANDed with `kk`; whatever the draw, no bit outside `kk` is set
(R151). That an answer is taken from the model's record, else is a free value of Config, is the model's (log entry 2).
Rests on the spec's own decision D12 (92_eei_decisions.md). -/
def Obligations.RandomIsOneDrawAndByte : Prop :=
  ∀ (x : RegIdx) (kk : Byte) (s : State), encode (.rnd x kk) = 0xC#4 ++ x ++ kk ∧
    ∃ t, exec (.rnd x kk) s = .next t ∧ t.pc = s.pc + 2#16 ∧ ChangesOnly s t [x] [.env] ∧ t.readV x &&& ~~~kk = 0#8 ∧
    (∀ r rs, s.env.random = r :: rs → t.readV x = r &&& kk ∧ t.env = { s.env with random := rs }) ∧
    (s.env.random = [] → t.readV x = Config.randomByte s.env.drawn &&& kk ∧
      t.env = { s.env with drawn := s.env.drawn + 1 })

/-! ## Index register and memory transfer (43_index_memory.md) -/

/-- `Annn`, `Fx1E` and `Fx29` write `I`, modulo 65536, and nothing else: no flag (R170 to R172).
Rests on the spec's own decisions D3, D15 and D19 (92_eei_decisions.md). -/
def Obligations.IndexRegisterWrites : Prop :=
  ∀ (nnn : Addr) (x : RegIdx) (s : State),
    encode (.ldI nnn) = 0xA#4 ++ nnn ∧ encode (.addI x) = 0xF#4 ++ x ++ 0x1E#8 ∧
    encode (.ldF x) = 0xF#4 ++ x ++ 0x29#8 ∧
    (∃ t, exec (.ldI nnn) s = .next t ∧ t.i.toNat = nnn.toNat ∧ t.pc = s.pc + 2#16 ∧ ChangesOnly s t [] [.index]) ∧
    (∃ t, exec (.addI x) s = .next t ∧ t.i.toNat = (s.i.toNat + (s.readV x).toNat) % 65536 ∧ t.pc = s.pc + 2#16 ∧
      ChangesOnly s t [] [.index]) ∧
    (∃ t, exec (.ldF x) s = .next t ∧ t.i.toNat = 0x050 + 5 * (s.readV x).toNat ∧ t.pc = s.pc + 2#16 ∧
      ChangesOnly s t [] [.index])

/-- `Fx33` stores the hundreds, tens and ones digit of `V[x]` at `I`, `I + 1`, `I + 2`, each address modulo 4096, and
changes no other byte and not `I` (R173).
Rests on the spec's own decisions D3 and D6 (92_eei_decisions.md). -/
def Obligations.DecimalDigitsAreStored : Prop :=
  ∀ (x : RegIdx) (s : State), encode (.ldB x) = 0xF#4 ++ x ++ 0x33#8 ∧
    ∃ t, exec (.ldB x) s = .next t ∧ t.pc = s.pc + 2#16 ∧ ChangesOnly s t [] [.memory] ∧
    (t.memRead (s.dataAddr 0)).toNat = (s.readV x).toNat / 100 ∧
    (t.memRead (s.dataAddr 1)).toNat = (s.readV x).toNat / 10 % 10 ∧
    (t.memRead (s.dataAddr 2)).toNat = (s.readV x).toNat % 10 ∧
    (∀ a, (∀ k < 3, a % 4096 ≠ s.dataAddr k % 4096) → t.memRead a = s.memRead a)

/-- `Fx55` stores `V[k]` at `I + k` for every `k` up to `x`, each address modulo 4096, advances `I` by `x + 1` modulo 65536,
and changes no other byte (R174).
Rests on the spec's own decisions D3, D6 and D25 (92_eei_decisions.md). -/
def Obligations.RegistersAreStoredUpToX : Prop :=
  ∀ (x : RegIdx) (s : State), encode (.storeRegs x) = 0xF#4 ++ x ++ 0x55#8 ∧
    ∃ t, exec (.storeRegs x) s = .next t ∧ t.pc = s.pc + 2#16 ∧
    ChangesOnly s t [] [.memory, .index] ∧ t.i.toNat = (s.i.toNat + x.toNat + 1) % 65536 ∧
    (∀ k : RegIdx, k.toNat ≤ x.toNat → t.memRead (s.dataAddr k.toNat) = s.readV k) ∧
    (∀ a, (∀ k ≤ x.toNat, a % 4096 ≠ s.dataAddr k % 4096) → t.memRead a = s.memRead a)

/-- `Fx65` loads `V[k]` from `I + k` for every `k` up to `x`, advances `I` by `x + 1` modulo 65536, and leaves the registers
above `V[x]` and all of memory alone (R175).
Rests on the spec's own decisions D3 and D25 (92_eei_decisions.md). -/
def Obligations.RegistersAreLoadedUpToX : Prop :=
  ∀ (x : RegIdx) (s : State), encode (.loadRegs x) = 0xF#4 ++ x ++ 0x65#8 ∧
    ∃ t, exec (.loadRegs x) s = .next t ∧ t.pc = s.pc + 2#16 ∧
    t.i.toNat = (s.i.toNat + x.toNat + 1) % 65536 ∧
    (∀ k : RegIdx, t.readV k = if k.toNat ≤ x.toNat then s.memRead (s.dataAddr k.toNat) else s.readV k) ∧
    (∀ p : Part, p ≠ .index → p.same s t)

/-- `Fx55` and then `Fx65` with the same `x` and the same `I` restores `V[0]`..`V[x]`, whatever happened to the registers in
between, and both leave `I` advanced by `x + 1` (95_test_vectors.md S3).
Rests on the spec's own decisions D3 and D25 (92_eei_decisions.md). -/
def Obligations.StoreThenLoadRestoresRegisters : Prop :=
  ∀ (x : RegIdx) (s t u : State), exec (.storeRegs x) s = .next t → u.i = s.i → (∀ a, u.memRead a = t.memRead a) →
    ∃ w, exec (.loadRegs x) u = .next w ∧ (∀ k : RegIdx, k.toNat ≤ x.toNat → w.readV k = s.readV k) ∧
      t.i = s.i + BitVec.ofNat 16 (x.toNat + 1) ∧ w.i = s.i + BitVec.ofNat 16 (x.toNat + 1)

/-- A store is seen by the very next fetch: after `Fx55` (with `x ≥ 1`) onto the bytes after it, the next word fetched is
`V[0] ++ V[1]` (R64).
Rests on the spec's own decisions D3, D6 and D25 (92_eei_decisions.md). -/
def Obligations.StoreIsSeenByTheNextFetch : Prop :=
  ∀ (x : RegIdx) (s t : State), 1 ≤ x.toNat → s.i.toNat % 4096 = (s.pc.toNat + 2) % 4096 →
    exec (.storeRegs x) s = .next t → t.fetch = s.readV 0#4 ++ s.readV 1#4

/-! ## Display (44_display.md) -/

/-- `00E0` turns every pixel off and changes nothing else, VF included (R192). -/
def Obligations.ClearBlanksTheDisplay : Prop :=
  ∀ s : State, encode .cls = 0x00E0#16 ∧ ∃ t, exec .cls s = .next t ∧ t.pc = s.pc + 2#16 ∧ ChangesOnly s t [] [.display] ∧
    ∀ row col, t.getPixel row col = false

/-- `Dxyn` flips exactly the pixels its set bits cover, base wrapped and body clipped; VF ends as 1 if a covered pixel was
on, else 0; nothing else changes, `I` and memory included (R191, R193).
Rests on the spec's own decisions D3 and D8 (92_eei_decisions.md). -/
def Obligations.DrawXorsTheSprite : Prop :=
  ∀ (x y : RegIdx) (n : Nibble) (s : State), encode (.drw x y n) = 0xD#4 ++ x ++ y ++ n ∧
    ∃ t, exec (.drw x y n) s = .next t ∧ t.pc = s.pc + 2#16 ∧
    ChangesOnly s t [vf] [.display] ∧
    ∀ baseR baseC : Nat, baseR = (s.readV y).toNat % 32 → baseC = (s.readV x).toNat % 64 →
      (∀ r c, s.spriteCovers baseR baseC n.toNat r c → t.getPixel r c = !s.getPixel r c) ∧
      (∀ r c, ¬ s.spriteCovers baseR baseC n.toNat r c → t.getPixel r c = s.getPixel r c) ∧
      ((∃ r c, s.spriteCovers baseR baseC n.toNat r c ∧ s.getPixel r c = true) → t.readV vf = 1#8) ∧
      ((¬ ∃ r c, s.spriteCovers baseR baseC n.toNat r c ∧ s.getPixel r c = true) → t.readV vf = 0#8)

/-- Drawing the same sprite twice at the same place restores the display, and VF after the second draw is 1 exactly if the
first draw turned some pixel on (95_test_vectors.md S5).
Rests on the spec's own decision D8 (92_eei_decisions.md). -/
def Obligations.DrawingTwiceRestoresTheDisplay : Prop :=
  ∀ (x y : RegIdx) (n : Nibble) (s t u w : State),
    exec (.drw x y n) s = .next t → u = t.setPc s.pc →
    (u.readV x).toNat % 64 = (s.readV x).toNat % 64 → (u.readV y).toNat % 32 = (s.readV y).toNat % 32 →
    exec (.drw x y n) u = .next w →
      (∀ r c, w.getPixel r c = s.getPixel r c) ∧
      (w.readV vf = 1#8 ↔ ∃ r c, s.getPixel r c = false ∧ t.getPixel r c = true)

/-- The collision flag is the only feedback from the framebuffer: two states that differ only in the framebuffer stay alike
in everything but the framebuffer and VF, and in VF too unless the instruction is `Dxyn` (R194). -/
def Obligations.FramebufferReachesOnlyVfThroughDraw : Prop :=
  ∀ (i : Instr) (s t : State) (f : FrameBuffer), exec i s = .next t → ∃ u, exec i (s.setFb f) = .next u ∧
    u = { t with v := u.v, fb := u.fb } ∧ (∀ r, r ≠ vf → u.readV r = t.readV r) ∧
    ((∀ x y n, i ≠ .drw x y n) → u.v = t.v)

/-! ## Keypad and timers (45_input_timers.md) -/

/-- `Ex9E` and `ExA1` ask once whether key `V[x]` is held and skip on the answer; a number above 15 is not held and is not
asked (R210, R211, R217). That an answer is taken from the model's record, else is a free value, is the model's (log entry
3).
Rests on the spec's own decision D13 (92_eei_decisions.md). -/
def Obligations.KeySkipsFollowTheAnswer : Prop :=
  ∀ (x : RegIdx) (s : State), encode (.skp x) = 0xE#4 ++ x ++ 0x9E#8 ∧ encode (.sknp x) = 0xE#4 ++ x ++ 0xA1#8 ∧
    ∃ t u, exec (.skp x) s = .next t ∧ exec (.sknp x) s = .next u ∧
    ChangesOnly s t [] [.env] ∧ ChangesOnly s u [] [.env] ∧ u.env = t.env ∧
    (∀ b bs, (s.readV x).toNat ≤ 15 → s.env.held = b :: bs →
      t.pc = (if b = true then s.pc + 4#16 else s.pc + 2#16) ∧ u.pc = (if b = true then s.pc + 2#16 else s.pc + 4#16) ∧
      t.env = { s.env with held := bs }) ∧
    (∀ b, (s.readV x).toNat ≤ 15 → s.env.held = [] → b = Config.keyHeld s.env.drawn ((s.readV x).setWidth 4) →
      t.pc = (if b = true then s.pc + 4#16 else s.pc + 2#16) ∧ u.pc = (if b = true then s.pc + 2#16 else s.pc + 4#16) ∧
      t.env = { s.env with drawn := s.env.drawn + 1 }) ∧
    (15 < (s.readV x).toNat → t.pc = s.pc + 2#16 ∧ u.pc = s.pc + 4#16 ∧ t.env = s.env)

/-- `Fx0A` asks once: a released key goes to `V[x]`, ends the wait and advances `PC`; none leaves the CPU blocked on this
instruction with `WREG = x`, and nothing else changes (R212). With no answer in the model's record the answer is a free
value, and one of the two happens (log entry 4).
Rests on the spec's own decision D14 (92_eei_decisions.md). -/
def Obligations.WaitKeyBlocksUntilARelease : Prop :=
  ∀ (x : RegIdx) (s : State), encode (.waitKey x) = 0xF#4 ++ x ++ 0x0A#8 ∧ ∃ t, exec (.waitKey x) s = .next t ∧
    ∀ answer : Option Key,
      (∀ ks, s.env.released = answer :: ks → t.env = { s.env with released := ks }) ∧
      (s.env.released = [] → t.env = { s.env with drawn := s.env.drawn + 1 }) ∧
      ((∃ ks, s.env.released = answer :: ks) ∨ (s.env.released = [] ∧ answer = Config.keyReleased s.env.drawn) →
        (∀ k, answer = some k → (t.readV x).toNat = k.toNat ∧ t.wait = false ∧ t.pc = s.pc + 2#16 ∧
          ChangesOnly s t [x] [.wait, .env]) ∧
        (answer = none → t.wait = true ∧ t.wreg = x ∧ t.pc = s.pc ∧ ChangesOnly s t [] [.wait, .wreg, .env]))

/-- `Fx07`, `Fx15` and `Fx18` copy the delay timer to a register and a register to a timer, and nothing else (R213 to
R215). -/
def Obligations.TimerTransfers : Prop :=
  ∀ (x : RegIdx) (s : State),
    encode (.ldVxDT x) = 0xF#4 ++ x ++ 0x07#8 ∧ encode (.ldDT x) = 0xF#4 ++ x ++ 0x15#8 ∧
    encode (.ldST x) = 0xF#4 ++ x ++ 0x18#8 ∧
    (∃ t, exec (.ldVxDT x) s = .next t ∧ t.readV x = s.dt ∧ t.pc = s.pc + 2#16 ∧ ChangesOnly s t [x] []) ∧
    (∃ t, exec (.ldDT x) s = .next t ∧ t.dt = s.readV x ∧ t.pc = s.pc + 2#16 ∧ ChangesOnly s t [] [.delay]) ∧
    (∃ t, exec (.ldST x) s = .next t ∧ t.st = s.readV x ∧ t.pc = s.pc + 2#16 ∧ ChangesOnly s t [] [.sound])

/-! ## Rules of the whole machine -/

/-- Only `Fx33` and `Fx55` change memory, and no instruction changes the font parameter (R60). -/
def Obligations.OnlyStoresChangeMemory : Prop :=
  ∀ (i : Instr) (s t : State), exec i s = .next t → t.font = s.font ∧
    ((∀ x, i ≠ .ldB x) → (∀ x, i ≠ .storeRegs x) → ∀ a, t.memRead a = s.memRead a)

/-- Only `00E0` and `Dxyn` change a pixel (R31). -/
def Obligations.OnlyClearAndDrawChangeTheDisplay : Prop :=
  ∀ (i : Instr) (s t : State), exec i s = .next t → i ≠ .cls → (∀ x y n, i ≠ .drw x y n) →
    ∀ row col, t.getPixel row col = s.getPixel row col

/-- Only `2nnn` writes a stack entry and only `2nnn` and `00EE` move `SP` (R24, R25).
Rests on the spec's own decision D16 (92_eei_decisions.md). -/
def Obligations.OnlyCallAndReturnUseTheStack : Prop :=
  ∀ (i : Instr) (s t : State), exec i s = .next t → (∀ nnn, i ≠ .call nnn) →
    t.stack = s.stack ∧ (i ≠ .ret → t.sp = s.sp)

/-- No instruction counts a timer: only `Fx15` writes `DT` and only `Fx18` writes `ST` (R26, R27). -/
def Obligations.NoInstructionCountsTheTimers : Prop :=
  ∀ (i : Instr) (s t : State), exec i s = .next t →
    ((∀ x, i ≠ .ldDT x) → t.dt = s.dt) ∧ ((∀ x, i ≠ .ldST x) → t.st = s.st)

/-- Only `Fx0A` writes `WAIT` and `WREG` (R28). -/
def Obligations.OnlyWaitKeyChangesTheWaitState : Prop :=
  ∀ (i : Instr) (s t : State), exec i s = .next t → (∀ x, i ≠ .waitKey x) → t.wait = s.wait ∧ t.wreg = s.wreg

/-- `I` is written by `Annn`, `Fx1E`, `Fx29`, `Fx55`, `Fx65` only (R22). -/
def Obligations.OnlyFiveInstructionsWriteI : Prop :=
  ∀ (i : Instr) (s t : State), exec i s = .next t → (∀ nnn, i ≠ .ldI nnn) → (∀ x, i ≠ .addI x) → (∀ x, i ≠ .ldF x) →
    (∀ x, i ≠ .storeRegs x) → (∀ x, i ≠ .loadRegs x) → t.i = s.i

/-- VF is written only by the flag-producing instructions `8xy4` to `8xy7`, `8xyE`, `Dxyn`, and by an instruction that names
register 0xF as its destination `x` (R21, R153).
Rests on the spec's own decision D20 (92_eei_decisions.md). -/
def Obligations.OnlyFlagProducersWriteVf : Prop :=
  ∀ (i : Instr) (s t : State), exec i s = .next t →
    (∀ x y, i ≠ .addReg x y) → (∀ x y, i ≠ .subReg x y) → (∀ x y, i ≠ .shrReg x y) → (∀ x y, i ≠ .subnReg x y) →
    (∀ x y, i ≠ .shlReg x y) → (∀ x y n, i ≠ .drw x y n) →
    (∀ kk, i ≠ .ldByte vf kk) → (∀ kk, i ≠ .addByte vf kk) → (∀ kk, i ≠ .rnd vf kk) →
    (∀ y, i ≠ .ldReg vf y) → (∀ y, i ≠ .orReg vf y) → (∀ y, i ≠ .andReg vf y) → (∀ y, i ≠ .xorReg vf y) →
    i ≠ .ldVxDT vf → i ≠ .waitKey vf → i ≠ .loadRegs vf → t.readV vf = s.readV vf

/-- The final VF of `8xy4`, of `Dxyn`, and of `8xy5`, `8xy6`, `8xy7`, `8xyE` with `x` not 0xF, is 0 or 1 (R37).
Rests on the spec's own decision D7 (92_eei_decisions.md). -/
def Obligations.FlagsAreZeroOrOne : Prop :=
  ∀ (x y : RegIdx) (n : Nibble) (i : Instr) (s t : State), exec i s = .next t →
    (i = .addReg x y ∨ i = .drw x y n ∨
      (x ≠ vf ∧ (i = .subReg x y ∨ i = .shrReg x y ∨ i = .subnReg x y ∨ i = .shlReg x y))) →
    t.readV vf = 0#8 ∨ t.readV vf = 1#8

/-- Only `Cxkk`, `Ex9E`, `ExA1` and `Fx0A` ask a port, each at most once (R151, R216): every other instruction leaves the
ports' record alone, these take at most one listed answer or one free value, and none touches the host's list.
The lists of answers and the count of free values are the model's choice (log entries 2, 3 and 4), and so is the host's list
(log entry 5).
Rests on the spec's own decisions D12 and D14 (92_eei_decisions.md). -/
def Obligations.PortsAreAskedAtMostOnce : Prop :=
  ∀ (i : Instr) (s t : State), exec i s = .next t → t.env.ops = s.env.ops ∧
    ((∀ x kk, i ≠ .rnd x kk) → (∀ x, i ≠ .skp x) → (∀ x, i ≠ .sknp x) → (∀ x, i ≠ .waitKey x) → t.env = s.env) ∧
    (t.env = s.env ∨ t.env = { s.env with drawn := s.env.drawn + 1 } ∨ t.env = { s.env with random := s.env.random.tail } ∨
      t.env = { s.env with held := s.env.held.tail } ∨ t.env = { s.env with released := s.env.released.tail })

/-- Only an unmatched word is reported: every other instruction hands the host nothing (R230, R235).
The record of what the host got is the model's choice (log entry 10).
Rests on the spec's own decision D17 (92_eei_decisions.md). -/
def Obligations.OnlyUnmatchedWordsAreReported : Prop :=
  ∀ (i : Instr) (s t : State), exec i s = .next t → (∀ op, i ≠ .unimpl op) → t.outputs = s.outputs

/-- Every instruction that raises no fault and is no jump, call, return, skip or `Fx0A` ends at `PC + 2`, modulo 65536
(R103).
Rests on the spec's own decision D2 (92_eei_decisions.md). -/
def Obligations.OrdinaryInstructionsAdvanceByTwo : Prop :=
  ∀ (i : Instr) (s t : State), exec i s = .next t →
    (∀ nnn, i ≠ .jp nnn) → (∀ nnn, i ≠ .call nnn) → (∀ nnn, i ≠ .jpV0 nnn) → i ≠ .ret → (∀ x, i ≠ .waitKey x) →
    (∀ x kk, i ≠ .seByte x kk) → (∀ x kk, i ≠ .sneByte x kk) → (∀ x y, i ≠ .seReg x y) → (∀ x y, i ≠ .sneReg x y) →
    (∀ x, i ≠ .skp x) → (∀ x, i ≠ .sknp x) → t.pc.toNat = (s.pc.toNat + 2) % 65536

/-- Every instruction completes: with `SP` at most 16 no instruction stops or is refused, whatever its operands (R109,
R230, R248).
Rests on the spec's own decisions D3 and D9 (92_eei_decisions.md). -/
def Obligations.EveryInstructionCompletes : Prop :=
  ∀ (i : Instr) (s : State), s.sp.toNat ≤ 16 → ∃ t, exec i s = .next t

/-- A jump to itself is a fixed point: a `Cycle` on a core parked at `a` leaves everything of the core as it is, and the core
stays parked (R277).
The list of the host's operations and the field `loadable` are the model's choice (log entries 5 and 9).
Rests on the spec's own decision D26 (92_eei_decisions.md). -/
def Obligations.ParkedCoreStaysParked : Prop :=
  ∀ (s : State) (a : Addr) (ops : List HostOp), s.ParkedAt a → s.env.ops = .cycle :: ops →
    ∃ t, step s = .next t ∧ t = (s.withOps ops).setLoadable false ∧ t.ParkedAt a

/-- Every step keeps the invariant, whatever the host's operation and the ports' answers (R37).
Rests on the spec's own decisions D9 and D18 (92_eei_decisions.md). -/
def Obligations.StepKeepsTheInvariant : Prop :=
  ∀ s t : State, s.Inv → step s = .next t → t.Inv

/-- The invariant holds after reset.
Rests on the spec's own decision D11 (92_eei_decisions.md). -/
def Obligations.ResetMeetsTheInvariant : Prop := State.reset.Inv

/-- From a state that meets the invariant no step ends in a fault, and none is refused but a `LoadRom` of the host.
Rests on the spec's own decisions D3 and D9 (92_eei_decisions.md). -/
def Obligations.OnlyLoadRomCanBeRefused : Prop :=
  ∀ s : State, s.Inv → (∀ bytes ops, s.env.ops ≠ .loadRom bytes :: ops) → ∃ t, step s = .next t
end

