-- ==== Sys2Proof/Laws/State.lean ====
section
/-! SUPPORT. One lemma per field per update of the state, and the accessors through each update. -/

namespace Sys2Proof.Machine.State

variable (s : State)

/-! ### setV -/

@[simp] theorem setV_v (x : RegIdx) (b : Byte) : (s.setV x b).v = s.v.set x.toNat b x.isLt := rfl
@[simp] theorem setV_i (x : RegIdx) (b : Byte) : (s.setV x b).i = s.i := rfl
@[simp] theorem setV_pc (x : RegIdx) (b : Byte) : (s.setV x b).pc = s.pc := rfl
@[simp] theorem setV_stack (x : RegIdx) (b : Byte) : (s.setV x b).stack = s.stack := rfl
@[simp] theorem setV_sp (x : RegIdx) (b : Byte) : (s.setV x b).sp = s.sp := rfl
@[simp] theorem setV_dt (x : RegIdx) (b : Byte) : (s.setV x b).dt = s.dt := rfl
@[simp] theorem setV_st (x : RegIdx) (b : Byte) : (s.setV x b).st = s.st := rfl
@[simp] theorem setV_wait (x : RegIdx) (b : Byte) : (s.setV x b).wait = s.wait := rfl
@[simp] theorem setV_wreg (x : RegIdx) (b : Byte) : (s.setV x b).wreg = s.wreg := rfl
@[simp] theorem setV_fault (x : RegIdx) (b : Byte) : (s.setV x b).fault = s.fault := rfl
@[simp] theorem setV_mem (x : RegIdx) (b : Byte) : (s.setV x b).mem = s.mem := rfl
@[simp] theorem setV_fb (x : RegIdx) (b : Byte) : (s.setV x b).fb = s.fb := rfl
@[simp] theorem setV_font (x : RegIdx) (b : Byte) : (s.setV x b).font = s.font := rfl
@[simp] theorem setV_loadable (x : RegIdx) (b : Byte) : (s.setV x b).loadable = s.loadable := rfl
@[simp] theorem setV_env (x : RegIdx) (b : Byte) : (s.setV x b).env = s.env := rfl
@[simp] theorem setV_outputs (x : RegIdx) (b : Byte) : (s.setV x b).outputs = s.outputs := rfl
@[simp] theorem setV_memRead (x : RegIdx) (b : Byte) (addr : Nat) : (s.setV x b).memRead addr = s.memRead addr := rfl
@[simp] theorem setV_getPixel (x : RegIdx) (b : Byte) (row col : Nat) : (s.setV x b).getPixel row col = s.getPixel row col := rfl

/-! ### setI -/

@[simp] theorem setI_v (a : Word) : (s.setI a).v = s.v := rfl
@[simp] theorem setI_i (a : Word) : (s.setI a).i = a := rfl
@[simp] theorem setI_pc (a : Word) : (s.setI a).pc = s.pc := rfl
@[simp] theorem setI_stack (a : Word) : (s.setI a).stack = s.stack := rfl
@[simp] theorem setI_sp (a : Word) : (s.setI a).sp = s.sp := rfl
@[simp] theorem setI_dt (a : Word) : (s.setI a).dt = s.dt := rfl
@[simp] theorem setI_st (a : Word) : (s.setI a).st = s.st := rfl
@[simp] theorem setI_wait (a : Word) : (s.setI a).wait = s.wait := rfl
@[simp] theorem setI_wreg (a : Word) : (s.setI a).wreg = s.wreg := rfl
@[simp] theorem setI_fault (a : Word) : (s.setI a).fault = s.fault := rfl
@[simp] theorem setI_mem (a : Word) : (s.setI a).mem = s.mem := rfl
@[simp] theorem setI_fb (a : Word) : (s.setI a).fb = s.fb := rfl
@[simp] theorem setI_font (a : Word) : (s.setI a).font = s.font := rfl
@[simp] theorem setI_loadable (a : Word) : (s.setI a).loadable = s.loadable := rfl
@[simp] theorem setI_env (a : Word) : (s.setI a).env = s.env := rfl
@[simp] theorem setI_outputs (a : Word) : (s.setI a).outputs = s.outputs := rfl
@[simp] theorem setI_readV (a : Word) (r : RegIdx) : (s.setI a).readV r = s.readV r := rfl
@[simp] theorem setI_memRead (a : Word) (addr : Nat) : (s.setI a).memRead addr = s.memRead addr := rfl
@[simp] theorem setI_getPixel (a : Word) (row col : Nat) : (s.setI a).getPixel row col = s.getPixel row col := rfl

/-! ### setPc -/

@[simp] theorem setPc_v (a : Word) : (s.setPc a).v = s.v := rfl
@[simp] theorem setPc_i (a : Word) : (s.setPc a).i = s.i := rfl
@[simp] theorem setPc_pc (a : Word) : (s.setPc a).pc = a := rfl
@[simp] theorem setPc_stack (a : Word) : (s.setPc a).stack = s.stack := rfl
@[simp] theorem setPc_sp (a : Word) : (s.setPc a).sp = s.sp := rfl
@[simp] theorem setPc_dt (a : Word) : (s.setPc a).dt = s.dt := rfl
@[simp] theorem setPc_st (a : Word) : (s.setPc a).st = s.st := rfl
@[simp] theorem setPc_wait (a : Word) : (s.setPc a).wait = s.wait := rfl
@[simp] theorem setPc_wreg (a : Word) : (s.setPc a).wreg = s.wreg := rfl
@[simp] theorem setPc_fault (a : Word) : (s.setPc a).fault = s.fault := rfl
@[simp] theorem setPc_mem (a : Word) : (s.setPc a).mem = s.mem := rfl
@[simp] theorem setPc_fb (a : Word) : (s.setPc a).fb = s.fb := rfl
@[simp] theorem setPc_font (a : Word) : (s.setPc a).font = s.font := rfl
@[simp] theorem setPc_loadable (a : Word) : (s.setPc a).loadable = s.loadable := rfl
@[simp] theorem setPc_env (a : Word) : (s.setPc a).env = s.env := rfl
@[simp] theorem setPc_outputs (a : Word) : (s.setPc a).outputs = s.outputs := rfl
@[simp] theorem setPc_readV (a : Word) (r : RegIdx) : (s.setPc a).readV r = s.readV r := rfl
@[simp] theorem setPc_memRead (a : Word) (addr : Nat) : (s.setPc a).memRead addr = s.memRead addr := rfl
@[simp] theorem setPc_getPixel (a : Word) (row col : Nat) : (s.setPc a).getPixel row col = s.getPixel row col := rfl

/-! ### setSp -/

@[simp] theorem setSp_v (b : Byte) : (s.setSp b).v = s.v := rfl
@[simp] theorem setSp_i (b : Byte) : (s.setSp b).i = s.i := rfl
@[simp] theorem setSp_pc (b : Byte) : (s.setSp b).pc = s.pc := rfl
@[simp] theorem setSp_stack (b : Byte) : (s.setSp b).stack = s.stack := rfl
@[simp] theorem setSp_sp (b : Byte) : (s.setSp b).sp = b := rfl
@[simp] theorem setSp_dt (b : Byte) : (s.setSp b).dt = s.dt := rfl
@[simp] theorem setSp_st (b : Byte) : (s.setSp b).st = s.st := rfl
@[simp] theorem setSp_wait (b : Byte) : (s.setSp b).wait = s.wait := rfl
@[simp] theorem setSp_wreg (b : Byte) : (s.setSp b).wreg = s.wreg := rfl
@[simp] theorem setSp_fault (b : Byte) : (s.setSp b).fault = s.fault := rfl
@[simp] theorem setSp_mem (b : Byte) : (s.setSp b).mem = s.mem := rfl
@[simp] theorem setSp_fb (b : Byte) : (s.setSp b).fb = s.fb := rfl
@[simp] theorem setSp_font (b : Byte) : (s.setSp b).font = s.font := rfl
@[simp] theorem setSp_loadable (b : Byte) : (s.setSp b).loadable = s.loadable := rfl
@[simp] theorem setSp_env (b : Byte) : (s.setSp b).env = s.env := rfl
@[simp] theorem setSp_outputs (b : Byte) : (s.setSp b).outputs = s.outputs := rfl
@[simp] theorem setSp_readV (b : Byte) (r : RegIdx) : (s.setSp b).readV r = s.readV r := rfl
@[simp] theorem setSp_memRead (b : Byte) (addr : Nat) : (s.setSp b).memRead addr = s.memRead addr := rfl
@[simp] theorem setSp_getPixel (b : Byte) (row col : Nat) : (s.setSp b).getPixel row col = s.getPixel row col := rfl

/-! ### setStack -/

@[simp] theorem setStack_v (k : Nat) (a : Word) : (s.setStack k a).v = s.v := rfl
@[simp] theorem setStack_i (k : Nat) (a : Word) : (s.setStack k a).i = s.i := rfl
@[simp] theorem setStack_pc (k : Nat) (a : Word) : (s.setStack k a).pc = s.pc := rfl
@[simp] theorem setStack_stack (k : Nat) (a : Word) : (s.setStack k a).stack = s.stack.setIfInBounds k a := rfl
@[simp] theorem setStack_sp (k : Nat) (a : Word) : (s.setStack k a).sp = s.sp := rfl
@[simp] theorem setStack_dt (k : Nat) (a : Word) : (s.setStack k a).dt = s.dt := rfl
@[simp] theorem setStack_st (k : Nat) (a : Word) : (s.setStack k a).st = s.st := rfl
@[simp] theorem setStack_wait (k : Nat) (a : Word) : (s.setStack k a).wait = s.wait := rfl
@[simp] theorem setStack_wreg (k : Nat) (a : Word) : (s.setStack k a).wreg = s.wreg := rfl
@[simp] theorem setStack_fault (k : Nat) (a : Word) : (s.setStack k a).fault = s.fault := rfl
@[simp] theorem setStack_mem (k : Nat) (a : Word) : (s.setStack k a).mem = s.mem := rfl
@[simp] theorem setStack_fb (k : Nat) (a : Word) : (s.setStack k a).fb = s.fb := rfl
@[simp] theorem setStack_font (k : Nat) (a : Word) : (s.setStack k a).font = s.font := rfl
@[simp] theorem setStack_loadable (k : Nat) (a : Word) : (s.setStack k a).loadable = s.loadable := rfl
@[simp] theorem setStack_env (k : Nat) (a : Word) : (s.setStack k a).env = s.env := rfl
@[simp] theorem setStack_outputs (k : Nat) (a : Word) : (s.setStack k a).outputs = s.outputs := rfl
@[simp] theorem setStack_readV (k : Nat) (a : Word) (r : RegIdx) : (s.setStack k a).readV r = s.readV r := rfl
@[simp] theorem setStack_memRead (k : Nat) (a : Word) (addr : Nat) : (s.setStack k a).memRead addr = s.memRead addr := rfl
@[simp] theorem setStack_getPixel (k : Nat) (a : Word) (row col : Nat) : (s.setStack k a).getPixel row col = s.getPixel row col := rfl

/-! ### setDt -/

@[simp] theorem setDt_v (b : Byte) : (s.setDt b).v = s.v := rfl
@[simp] theorem setDt_i (b : Byte) : (s.setDt b).i = s.i := rfl
@[simp] theorem setDt_pc (b : Byte) : (s.setDt b).pc = s.pc := rfl
@[simp] theorem setDt_stack (b : Byte) : (s.setDt b).stack = s.stack := rfl
@[simp] theorem setDt_sp (b : Byte) : (s.setDt b).sp = s.sp := rfl
@[simp] theorem setDt_dt (b : Byte) : (s.setDt b).dt = b := rfl
@[simp] theorem setDt_st (b : Byte) : (s.setDt b).st = s.st := rfl
@[simp] theorem setDt_wait (b : Byte) : (s.setDt b).wait = s.wait := rfl
@[simp] theorem setDt_wreg (b : Byte) : (s.setDt b).wreg = s.wreg := rfl
@[simp] theorem setDt_fault (b : Byte) : (s.setDt b).fault = s.fault := rfl
@[simp] theorem setDt_mem (b : Byte) : (s.setDt b).mem = s.mem := rfl
@[simp] theorem setDt_fb (b : Byte) : (s.setDt b).fb = s.fb := rfl
@[simp] theorem setDt_font (b : Byte) : (s.setDt b).font = s.font := rfl
@[simp] theorem setDt_loadable (b : Byte) : (s.setDt b).loadable = s.loadable := rfl
@[simp] theorem setDt_env (b : Byte) : (s.setDt b).env = s.env := rfl
@[simp] theorem setDt_outputs (b : Byte) : (s.setDt b).outputs = s.outputs := rfl
@[simp] theorem setDt_readV (b : Byte) (r : RegIdx) : (s.setDt b).readV r = s.readV r := rfl
@[simp] theorem setDt_memRead (b : Byte) (addr : Nat) : (s.setDt b).memRead addr = s.memRead addr := rfl
@[simp] theorem setDt_getPixel (b : Byte) (row col : Nat) : (s.setDt b).getPixel row col = s.getPixel row col := rfl

/-! ### setSt -/

@[simp] theorem setSt_v (b : Byte) : (s.setSt b).v = s.v := rfl
@[simp] theorem setSt_i (b : Byte) : (s.setSt b).i = s.i := rfl
@[simp] theorem setSt_pc (b : Byte) : (s.setSt b).pc = s.pc := rfl
@[simp] theorem setSt_stack (b : Byte) : (s.setSt b).stack = s.stack := rfl
@[simp] theorem setSt_sp (b : Byte) : (s.setSt b).sp = s.sp := rfl
@[simp] theorem setSt_dt (b : Byte) : (s.setSt b).dt = s.dt := rfl
@[simp] theorem setSt_st (b : Byte) : (s.setSt b).st = b := rfl
@[simp] theorem setSt_wait (b : Byte) : (s.setSt b).wait = s.wait := rfl
@[simp] theorem setSt_wreg (b : Byte) : (s.setSt b).wreg = s.wreg := rfl
@[simp] theorem setSt_fault (b : Byte) : (s.setSt b).fault = s.fault := rfl
@[simp] theorem setSt_mem (b : Byte) : (s.setSt b).mem = s.mem := rfl
@[simp] theorem setSt_fb (b : Byte) : (s.setSt b).fb = s.fb := rfl
@[simp] theorem setSt_font (b : Byte) : (s.setSt b).font = s.font := rfl
@[simp] theorem setSt_loadable (b : Byte) : (s.setSt b).loadable = s.loadable := rfl
@[simp] theorem setSt_env (b : Byte) : (s.setSt b).env = s.env := rfl
@[simp] theorem setSt_outputs (b : Byte) : (s.setSt b).outputs = s.outputs := rfl
@[simp] theorem setSt_readV (b : Byte) (r : RegIdx) : (s.setSt b).readV r = s.readV r := rfl
@[simp] theorem setSt_memRead (b : Byte) (addr : Nat) : (s.setSt b).memRead addr = s.memRead addr := rfl
@[simp] theorem setSt_getPixel (b : Byte) (row col : Nat) : (s.setSt b).getPixel row col = s.getPixel row col := rfl

/-! ### setWait -/

@[simp] theorem setWait_v (w : Bool) : (s.setWait w).v = s.v := rfl
@[simp] theorem setWait_i (w : Bool) : (s.setWait w).i = s.i := rfl
@[simp] theorem setWait_pc (w : Bool) : (s.setWait w).pc = s.pc := rfl
@[simp] theorem setWait_stack (w : Bool) : (s.setWait w).stack = s.stack := rfl
@[simp] theorem setWait_sp (w : Bool) : (s.setWait w).sp = s.sp := rfl
@[simp] theorem setWait_dt (w : Bool) : (s.setWait w).dt = s.dt := rfl
@[simp] theorem setWait_st (w : Bool) : (s.setWait w).st = s.st := rfl
@[simp] theorem setWait_wait (w : Bool) : (s.setWait w).wait = w := rfl
@[simp] theorem setWait_wreg (w : Bool) : (s.setWait w).wreg = s.wreg := rfl
@[simp] theorem setWait_fault (w : Bool) : (s.setWait w).fault = s.fault := rfl
@[simp] theorem setWait_mem (w : Bool) : (s.setWait w).mem = s.mem := rfl
@[simp] theorem setWait_fb (w : Bool) : (s.setWait w).fb = s.fb := rfl
@[simp] theorem setWait_font (w : Bool) : (s.setWait w).font = s.font := rfl
@[simp] theorem setWait_loadable (w : Bool) : (s.setWait w).loadable = s.loadable := rfl
@[simp] theorem setWait_env (w : Bool) : (s.setWait w).env = s.env := rfl
@[simp] theorem setWait_outputs (w : Bool) : (s.setWait w).outputs = s.outputs := rfl
@[simp] theorem setWait_readV (w : Bool) (r : RegIdx) : (s.setWait w).readV r = s.readV r := rfl
@[simp] theorem setWait_memRead (w : Bool) (addr : Nat) : (s.setWait w).memRead addr = s.memRead addr := rfl
@[simp] theorem setWait_getPixel (w : Bool) (row col : Nat) : (s.setWait w).getPixel row col = s.getPixel row col := rfl

/-! ### setWreg -/

@[simp] theorem setWreg_v (x : RegIdx) : (s.setWreg x).v = s.v := rfl
@[simp] theorem setWreg_i (x : RegIdx) : (s.setWreg x).i = s.i := rfl
@[simp] theorem setWreg_pc (x : RegIdx) : (s.setWreg x).pc = s.pc := rfl
@[simp] theorem setWreg_stack (x : RegIdx) : (s.setWreg x).stack = s.stack := rfl
@[simp] theorem setWreg_sp (x : RegIdx) : (s.setWreg x).sp = s.sp := rfl
@[simp] theorem setWreg_dt (x : RegIdx) : (s.setWreg x).dt = s.dt := rfl
@[simp] theorem setWreg_st (x : RegIdx) : (s.setWreg x).st = s.st := rfl
@[simp] theorem setWreg_wait (x : RegIdx) : (s.setWreg x).wait = s.wait := rfl
@[simp] theorem setWreg_wreg (x : RegIdx) : (s.setWreg x).wreg = x := rfl
@[simp] theorem setWreg_fault (x : RegIdx) : (s.setWreg x).fault = s.fault := rfl
@[simp] theorem setWreg_mem (x : RegIdx) : (s.setWreg x).mem = s.mem := rfl
@[simp] theorem setWreg_fb (x : RegIdx) : (s.setWreg x).fb = s.fb := rfl
@[simp] theorem setWreg_font (x : RegIdx) : (s.setWreg x).font = s.font := rfl
@[simp] theorem setWreg_loadable (x : RegIdx) : (s.setWreg x).loadable = s.loadable := rfl
@[simp] theorem setWreg_env (x : RegIdx) : (s.setWreg x).env = s.env := rfl
@[simp] theorem setWreg_outputs (x : RegIdx) : (s.setWreg x).outputs = s.outputs := rfl
@[simp] theorem setWreg_readV (x : RegIdx) (r : RegIdx) : (s.setWreg x).readV r = s.readV r := rfl
@[simp] theorem setWreg_memRead (x : RegIdx) (addr : Nat) : (s.setWreg x).memRead addr = s.memRead addr := rfl
@[simp] theorem setWreg_getPixel (x : RegIdx) (row col : Nat) : (s.setWreg x).getPixel row col = s.getPixel row col := rfl

/-! ### setFault -/

@[simp] theorem setFault_v (c : BitVec 2) : (s.setFault c).v = s.v := rfl
@[simp] theorem setFault_i (c : BitVec 2) : (s.setFault c).i = s.i := rfl
@[simp] theorem setFault_pc (c : BitVec 2) : (s.setFault c).pc = s.pc := rfl
@[simp] theorem setFault_stack (c : BitVec 2) : (s.setFault c).stack = s.stack := rfl
@[simp] theorem setFault_sp (c : BitVec 2) : (s.setFault c).sp = s.sp := rfl
@[simp] theorem setFault_dt (c : BitVec 2) : (s.setFault c).dt = s.dt := rfl
@[simp] theorem setFault_st (c : BitVec 2) : (s.setFault c).st = s.st := rfl
@[simp] theorem setFault_wait (c : BitVec 2) : (s.setFault c).wait = s.wait := rfl
@[simp] theorem setFault_wreg (c : BitVec 2) : (s.setFault c).wreg = s.wreg := rfl
@[simp] theorem setFault_fault (c : BitVec 2) : (s.setFault c).fault = c := rfl
@[simp] theorem setFault_mem (c : BitVec 2) : (s.setFault c).mem = s.mem := rfl
@[simp] theorem setFault_fb (c : BitVec 2) : (s.setFault c).fb = s.fb := rfl
@[simp] theorem setFault_font (c : BitVec 2) : (s.setFault c).font = s.font := rfl
@[simp] theorem setFault_loadable (c : BitVec 2) : (s.setFault c).loadable = s.loadable := rfl
@[simp] theorem setFault_env (c : BitVec 2) : (s.setFault c).env = s.env := rfl
@[simp] theorem setFault_outputs (c : BitVec 2) : (s.setFault c).outputs = s.outputs := rfl
@[simp] theorem setFault_readV (c : BitVec 2) (r : RegIdx) : (s.setFault c).readV r = s.readV r := rfl
@[simp] theorem setFault_memRead (c : BitVec 2) (addr : Nat) : (s.setFault c).memRead addr = s.memRead addr := rfl
@[simp] theorem setFault_getPixel (c : BitVec 2) (row col : Nat) : (s.setFault c).getPixel row col = s.getPixel row col := rfl

/-! ### setMem -/

@[simp] theorem setMem_v (m : Memory) : (s.setMem m).v = s.v := rfl
@[simp] theorem setMem_i (m : Memory) : (s.setMem m).i = s.i := rfl
@[simp] theorem setMem_pc (m : Memory) : (s.setMem m).pc = s.pc := rfl
@[simp] theorem setMem_stack (m : Memory) : (s.setMem m).stack = s.stack := rfl
@[simp] theorem setMem_sp (m : Memory) : (s.setMem m).sp = s.sp := rfl
@[simp] theorem setMem_dt (m : Memory) : (s.setMem m).dt = s.dt := rfl
@[simp] theorem setMem_st (m : Memory) : (s.setMem m).st = s.st := rfl
@[simp] theorem setMem_wait (m : Memory) : (s.setMem m).wait = s.wait := rfl
@[simp] theorem setMem_wreg (m : Memory) : (s.setMem m).wreg = s.wreg := rfl
@[simp] theorem setMem_fault (m : Memory) : (s.setMem m).fault = s.fault := rfl
@[simp] theorem setMem_mem (m : Memory) : (s.setMem m).mem = m := rfl
@[simp] theorem setMem_fb (m : Memory) : (s.setMem m).fb = s.fb := rfl
@[simp] theorem setMem_font (m : Memory) : (s.setMem m).font = s.font := rfl
@[simp] theorem setMem_loadable (m : Memory) : (s.setMem m).loadable = s.loadable := rfl
@[simp] theorem setMem_env (m : Memory) : (s.setMem m).env = s.env := rfl
@[simp] theorem setMem_outputs (m : Memory) : (s.setMem m).outputs = s.outputs := rfl
@[simp] theorem setMem_readV (m : Memory) (r : RegIdx) : (s.setMem m).readV r = s.readV r := rfl
@[simp] theorem setMem_getPixel (m : Memory) (row col : Nat) : (s.setMem m).getPixel row col = s.getPixel row col := rfl

/-! ### setFb -/

@[simp] theorem setFb_v (f : FrameBuffer) : (s.setFb f).v = s.v := rfl
@[simp] theorem setFb_i (f : FrameBuffer) : (s.setFb f).i = s.i := rfl
@[simp] theorem setFb_pc (f : FrameBuffer) : (s.setFb f).pc = s.pc := rfl
@[simp] theorem setFb_stack (f : FrameBuffer) : (s.setFb f).stack = s.stack := rfl
@[simp] theorem setFb_sp (f : FrameBuffer) : (s.setFb f).sp = s.sp := rfl
@[simp] theorem setFb_dt (f : FrameBuffer) : (s.setFb f).dt = s.dt := rfl
@[simp] theorem setFb_st (f : FrameBuffer) : (s.setFb f).st = s.st := rfl
@[simp] theorem setFb_wait (f : FrameBuffer) : (s.setFb f).wait = s.wait := rfl
@[simp] theorem setFb_wreg (f : FrameBuffer) : (s.setFb f).wreg = s.wreg := rfl
@[simp] theorem setFb_fault (f : FrameBuffer) : (s.setFb f).fault = s.fault := rfl
@[simp] theorem setFb_mem (f : FrameBuffer) : (s.setFb f).mem = s.mem := rfl
@[simp] theorem setFb_fb (f : FrameBuffer) : (s.setFb f).fb = f := rfl
@[simp] theorem setFb_font (f : FrameBuffer) : (s.setFb f).font = s.font := rfl
@[simp] theorem setFb_loadable (f : FrameBuffer) : (s.setFb f).loadable = s.loadable := rfl
@[simp] theorem setFb_env (f : FrameBuffer) : (s.setFb f).env = s.env := rfl
@[simp] theorem setFb_outputs (f : FrameBuffer) : (s.setFb f).outputs = s.outputs := rfl
@[simp] theorem setFb_readV (f : FrameBuffer) (r : RegIdx) : (s.setFb f).readV r = s.readV r := rfl
@[simp] theorem setFb_memRead (f : FrameBuffer) (addr : Nat) : (s.setFb f).memRead addr = s.memRead addr := rfl

/-! ### setEnv -/

@[simp] theorem setEnv_v (e : Env) : (s.setEnv e).v = s.v := rfl
@[simp] theorem setEnv_i (e : Env) : (s.setEnv e).i = s.i := rfl
@[simp] theorem setEnv_pc (e : Env) : (s.setEnv e).pc = s.pc := rfl
@[simp] theorem setEnv_stack (e : Env) : (s.setEnv e).stack = s.stack := rfl
@[simp] theorem setEnv_sp (e : Env) : (s.setEnv e).sp = s.sp := rfl
@[simp] theorem setEnv_dt (e : Env) : (s.setEnv e).dt = s.dt := rfl
@[simp] theorem setEnv_st (e : Env) : (s.setEnv e).st = s.st := rfl
@[simp] theorem setEnv_wait (e : Env) : (s.setEnv e).wait = s.wait := rfl
@[simp] theorem setEnv_wreg (e : Env) : (s.setEnv e).wreg = s.wreg := rfl
@[simp] theorem setEnv_fault (e : Env) : (s.setEnv e).fault = s.fault := rfl
@[simp] theorem setEnv_mem (e : Env) : (s.setEnv e).mem = s.mem := rfl
@[simp] theorem setEnv_fb (e : Env) : (s.setEnv e).fb = s.fb := rfl
@[simp] theorem setEnv_font (e : Env) : (s.setEnv e).font = s.font := rfl
@[simp] theorem setEnv_loadable (e : Env) : (s.setEnv e).loadable = s.loadable := rfl
@[simp] theorem setEnv_env (e : Env) : (s.setEnv e).env = e := rfl
@[simp] theorem setEnv_outputs (e : Env) : (s.setEnv e).outputs = s.outputs := rfl
@[simp] theorem setEnv_readV (e : Env) (r : RegIdx) : (s.setEnv e).readV r = s.readV r := rfl
@[simp] theorem setEnv_memRead (e : Env) (addr : Nat) : (s.setEnv e).memRead addr = s.memRead addr := rfl
@[simp] theorem setEnv_getPixel (e : Env) (row col : Nat) : (s.setEnv e).getPixel row col = s.getPixel row col := rfl

/-! ### setLoadable -/

@[simp] theorem setLoadable_v (b : Bool) : (s.setLoadable b).v = s.v := rfl
@[simp] theorem setLoadable_i (b : Bool) : (s.setLoadable b).i = s.i := rfl
@[simp] theorem setLoadable_pc (b : Bool) : (s.setLoadable b).pc = s.pc := rfl
@[simp] theorem setLoadable_stack (b : Bool) : (s.setLoadable b).stack = s.stack := rfl
@[simp] theorem setLoadable_sp (b : Bool) : (s.setLoadable b).sp = s.sp := rfl
@[simp] theorem setLoadable_dt (b : Bool) : (s.setLoadable b).dt = s.dt := rfl
@[simp] theorem setLoadable_st (b : Bool) : (s.setLoadable b).st = s.st := rfl
@[simp] theorem setLoadable_wait (b : Bool) : (s.setLoadable b).wait = s.wait := rfl
@[simp] theorem setLoadable_wreg (b : Bool) : (s.setLoadable b).wreg = s.wreg := rfl
@[simp] theorem setLoadable_fault (b : Bool) : (s.setLoadable b).fault = s.fault := rfl
@[simp] theorem setLoadable_mem (b : Bool) : (s.setLoadable b).mem = s.mem := rfl
@[simp] theorem setLoadable_fb (b : Bool) : (s.setLoadable b).fb = s.fb := rfl
@[simp] theorem setLoadable_font (b : Bool) : (s.setLoadable b).font = s.font := rfl
@[simp] theorem setLoadable_loadable (b : Bool) : (s.setLoadable b).loadable = b := rfl
@[simp] theorem setLoadable_env (b : Bool) : (s.setLoadable b).env = s.env := rfl
@[simp] theorem setLoadable_outputs (b : Bool) : (s.setLoadable b).outputs = s.outputs := rfl
@[simp] theorem setLoadable_readV (b : Bool) (r : RegIdx) : (s.setLoadable b).readV r = s.readV r := rfl
@[simp] theorem setLoadable_memRead (b : Bool) (addr : Nat) : (s.setLoadable b).memRead addr = s.memRead addr := rfl
@[simp] theorem setLoadable_getPixel (b : Bool) (row col : Nat) : (s.setLoadable b).getPixel row col = s.getPixel row col := rfl

/-! ### emit -/

@[simp] theorem emit_v (o : Output) : (s.emit o).v = s.v := rfl
@[simp] theorem emit_i (o : Output) : (s.emit o).i = s.i := rfl
@[simp] theorem emit_pc (o : Output) : (s.emit o).pc = s.pc := rfl
@[simp] theorem emit_stack (o : Output) : (s.emit o).stack = s.stack := rfl
@[simp] theorem emit_sp (o : Output) : (s.emit o).sp = s.sp := rfl
@[simp] theorem emit_dt (o : Output) : (s.emit o).dt = s.dt := rfl
@[simp] theorem emit_st (o : Output) : (s.emit o).st = s.st := rfl
@[simp] theorem emit_wait (o : Output) : (s.emit o).wait = s.wait := rfl
@[simp] theorem emit_wreg (o : Output) : (s.emit o).wreg = s.wreg := rfl
@[simp] theorem emit_fault (o : Output) : (s.emit o).fault = s.fault := rfl
@[simp] theorem emit_mem (o : Output) : (s.emit o).mem = s.mem := rfl
@[simp] theorem emit_fb (o : Output) : (s.emit o).fb = s.fb := rfl
@[simp] theorem emit_font (o : Output) : (s.emit o).font = s.font := rfl
@[simp] theorem emit_loadable (o : Output) : (s.emit o).loadable = s.loadable := rfl
@[simp] theorem emit_env (o : Output) : (s.emit o).env = s.env := rfl
@[simp] theorem emit_outputs (o : Output) : (s.emit o).outputs = o :: s.outputs := rfl
@[simp] theorem emit_readV (o : Output) (r : RegIdx) : (s.emit o).readV r = s.readV r := rfl
@[simp] theorem emit_memRead (o : Output) (addr : Nat) : (s.emit o).memRead addr = s.memRead addr := rfl
@[simp] theorem emit_getPixel (o : Output) (row col : Nat) : (s.emit o).getPixel row col = s.getPixel row col := rfl

/-! ### advance -/

@[simp] theorem advance_v : s.advance.v = s.v := rfl
@[simp] theorem advance_i : s.advance.i = s.i := rfl
@[simp] theorem advance_pc : s.advance.pc = s.pc + 2#16 := rfl
@[simp] theorem advance_stack : s.advance.stack = s.stack := rfl
@[simp] theorem advance_sp : s.advance.sp = s.sp := rfl
@[simp] theorem advance_dt : s.advance.dt = s.dt := rfl
@[simp] theorem advance_st : s.advance.st = s.st := rfl
@[simp] theorem advance_wait : s.advance.wait = s.wait := rfl
@[simp] theorem advance_wreg : s.advance.wreg = s.wreg := rfl
@[simp] theorem advance_fault : s.advance.fault = s.fault := rfl
@[simp] theorem advance_mem : s.advance.mem = s.mem := rfl
@[simp] theorem advance_fb : s.advance.fb = s.fb := rfl
@[simp] theorem advance_font : s.advance.font = s.font := rfl
@[simp] theorem advance_loadable : s.advance.loadable = s.loadable := rfl
@[simp] theorem advance_env : s.advance.env = s.env := rfl
@[simp] theorem advance_outputs : s.advance.outputs = s.outputs := rfl
@[simp] theorem advance_readV (r : RegIdx) : s.advance.readV r = s.readV r := rfl
@[simp] theorem advance_memRead (addr : Nat) : s.advance.memRead addr = s.memRead addr := rfl
@[simp] theorem advance_getPixel (i j : Nat) : s.advance.getPixel i j = s.getPixel i j := rfl

/-! ### skipIf -/

@[simp] theorem skipIf_v (c : Bool) : (s.skipIf c).v = s.v := by cases c <;> rfl
@[simp] theorem skipIf_i (c : Bool) : (s.skipIf c).i = s.i := by cases c <;> rfl
@[simp] theorem skipIf_pc (c : Bool) : (s.skipIf c).pc = if c then s.pc + 2#16 else s.pc := by cases c <;> rfl
@[simp] theorem skipIf_stack (c : Bool) : (s.skipIf c).stack = s.stack := by cases c <;> rfl
@[simp] theorem skipIf_sp (c : Bool) : (s.skipIf c).sp = s.sp := by cases c <;> rfl
@[simp] theorem skipIf_dt (c : Bool) : (s.skipIf c).dt = s.dt := by cases c <;> rfl
@[simp] theorem skipIf_st (c : Bool) : (s.skipIf c).st = s.st := by cases c <;> rfl
@[simp] theorem skipIf_wait (c : Bool) : (s.skipIf c).wait = s.wait := by cases c <;> rfl
@[simp] theorem skipIf_wreg (c : Bool) : (s.skipIf c).wreg = s.wreg := by cases c <;> rfl
@[simp] theorem skipIf_fault (c : Bool) : (s.skipIf c).fault = s.fault := by cases c <;> rfl
@[simp] theorem skipIf_mem (c : Bool) : (s.skipIf c).mem = s.mem := by cases c <;> rfl
@[simp] theorem skipIf_fb (c : Bool) : (s.skipIf c).fb = s.fb := by cases c <;> rfl
@[simp] theorem skipIf_font (c : Bool) : (s.skipIf c).font = s.font := by cases c <;> rfl
@[simp] theorem skipIf_loadable (c : Bool) : (s.skipIf c).loadable = s.loadable := by cases c <;> rfl
@[simp] theorem skipIf_env (c : Bool) : (s.skipIf c).env = s.env := by cases c <;> rfl
@[simp] theorem skipIf_outputs (c : Bool) : (s.skipIf c).outputs = s.outputs := by cases c <;> rfl
@[simp] theorem skipIf_readV (c : Bool) (r : RegIdx) : (s.skipIf c).readV r = s.readV r := by cases c <;> rfl
@[simp] theorem skipIf_memRead (c : Bool) (addr : Nat) : (s.skipIf c).memRead addr = s.memRead addr := by cases c <;> rfl

@[simp] theorem skipIf_getPixel (c : Bool) (row col : Nat) : (s.skipIf c).getPixel row col = s.getPixel row col := by
  cases c <;> rfl

/-! ### raiseFault -/

@[simp] theorem raiseFault_v (c : Condition) : (s.raiseFault c).v = s.v := rfl
@[simp] theorem raiseFault_i (c : Condition) : (s.raiseFault c).i = s.i := rfl
@[simp] theorem raiseFault_pc (c : Condition) : (s.raiseFault c).pc = s.pc := rfl
@[simp] theorem raiseFault_stack (c : Condition) : (s.raiseFault c).stack = s.stack := rfl
@[simp] theorem raiseFault_sp (c : Condition) : (s.raiseFault c).sp = s.sp := rfl
@[simp] theorem raiseFault_dt (c : Condition) : (s.raiseFault c).dt = s.dt := rfl
@[simp] theorem raiseFault_st (c : Condition) : (s.raiseFault c).st = s.st := rfl
@[simp] theorem raiseFault_wait (c : Condition) : (s.raiseFault c).wait = s.wait := rfl
@[simp] theorem raiseFault_wreg (c : Condition) : (s.raiseFault c).wreg = s.wreg := rfl
@[simp] theorem raiseFault_fault (c : Condition) : (s.raiseFault c).fault = c.code := rfl
@[simp] theorem raiseFault_mem (c : Condition) : (s.raiseFault c).mem = s.mem := rfl
@[simp] theorem raiseFault_fb (c : Condition) : (s.raiseFault c).fb = s.fb := rfl
@[simp] theorem raiseFault_font (c : Condition) : (s.raiseFault c).font = s.font := rfl
@[simp] theorem raiseFault_loadable (c : Condition) : (s.raiseFault c).loadable = s.loadable := rfl
@[simp] theorem raiseFault_env (c : Condition) : (s.raiseFault c).env = s.env := rfl
@[simp] theorem raiseFault_outputs (c : Condition) : (s.raiseFault c).outputs = s.outputs := rfl
@[simp] theorem raiseFault_readV (c : Condition) (r : RegIdx) : (s.raiseFault c).readV r = s.readV r := rfl
@[simp] theorem raiseFault_memRead (c : Condition) (addr : Nat) : (s.raiseFault c).memRead addr = s.memRead addr := rfl
@[simp] theorem raiseFault_getPixel (c : Condition) (i j : Nat) : (s.raiseFault c).getPixel i j = s.getPixel i j := rfl

/-! ### memWrite -/

@[simp] theorem memWrite_v (a : Nat) (x : Byte) : (s.memWrite a x).v = s.v := rfl
@[simp] theorem memWrite_i (a : Nat) (x : Byte) : (s.memWrite a x).i = s.i := rfl
@[simp] theorem memWrite_pc (a : Nat) (x : Byte) : (s.memWrite a x).pc = s.pc := rfl
@[simp] theorem memWrite_stack (a : Nat) (x : Byte) : (s.memWrite a x).stack = s.stack := rfl
@[simp] theorem memWrite_sp (a : Nat) (x : Byte) : (s.memWrite a x).sp = s.sp := rfl
@[simp] theorem memWrite_dt (a : Nat) (x : Byte) : (s.memWrite a x).dt = s.dt := rfl
@[simp] theorem memWrite_st (a : Nat) (x : Byte) : (s.memWrite a x).st = s.st := rfl
@[simp] theorem memWrite_wait (a : Nat) (x : Byte) : (s.memWrite a x).wait = s.wait := rfl
@[simp] theorem memWrite_wreg (a : Nat) (x : Byte) : (s.memWrite a x).wreg = s.wreg := rfl
@[simp] theorem memWrite_fault (a : Nat) (x : Byte) : (s.memWrite a x).fault = s.fault := rfl
@[simp] theorem memWrite_mem (a : Nat) (x : Byte) : (s.memWrite a x).mem = Memory.write s.font s.mem (a % Config.memSize) x := rfl
@[simp] theorem memWrite_fb (a : Nat) (x : Byte) : (s.memWrite a x).fb = s.fb := rfl
@[simp] theorem memWrite_font (a : Nat) (x : Byte) : (s.memWrite a x).font = s.font := rfl
@[simp] theorem memWrite_loadable (a : Nat) (x : Byte) : (s.memWrite a x).loadable = s.loadable := rfl
@[simp] theorem memWrite_env (a : Nat) (x : Byte) : (s.memWrite a x).env = s.env := rfl
@[simp] theorem memWrite_outputs (a : Nat) (x : Byte) : (s.memWrite a x).outputs = s.outputs := rfl
@[simp] theorem memWrite_readV (a : Nat) (x : Byte) (r : RegIdx) : (s.memWrite a x).readV r = s.readV r := rfl
@[simp] theorem memWrite_getPixel (a : Nat) (x : Byte) (i j : Nat) : (s.memWrite a x).getPixel i j = s.getPixel i j := rfl

/-! ### setPixel -/

@[simp] theorem setPixel_v (row col : Nat) (on : Bool) : (s.setPixel row col on).v = s.v := by unfold setPixel; split <;> rfl
@[simp] theorem setPixel_i (row col : Nat) (on : Bool) : (s.setPixel row col on).i = s.i := by unfold setPixel; split <;> rfl
@[simp] theorem setPixel_pc (row col : Nat) (on : Bool) : (s.setPixel row col on).pc = s.pc := by unfold setPixel; split <;> rfl
@[simp] theorem setPixel_stack (row col : Nat) (on : Bool) : (s.setPixel row col on).stack = s.stack := by unfold setPixel; split <;> rfl
@[simp] theorem setPixel_sp (row col : Nat) (on : Bool) : (s.setPixel row col on).sp = s.sp := by unfold setPixel; split <;> rfl
@[simp] theorem setPixel_dt (row col : Nat) (on : Bool) : (s.setPixel row col on).dt = s.dt := by unfold setPixel; split <;> rfl
@[simp] theorem setPixel_st (row col : Nat) (on : Bool) : (s.setPixel row col on).st = s.st := by unfold setPixel; split <;> rfl
@[simp] theorem setPixel_wait (row col : Nat) (on : Bool) : (s.setPixel row col on).wait = s.wait := by unfold setPixel; split <;> rfl
@[simp] theorem setPixel_wreg (row col : Nat) (on : Bool) : (s.setPixel row col on).wreg = s.wreg := by unfold setPixel; split <;> rfl
@[simp] theorem setPixel_fault (row col : Nat) (on : Bool) : (s.setPixel row col on).fault = s.fault := by unfold setPixel; split <;> rfl
@[simp] theorem setPixel_mem (row col : Nat) (on : Bool) : (s.setPixel row col on).mem = s.mem := by unfold setPixel; split <;> rfl
@[simp] theorem setPixel_font (row col : Nat) (on : Bool) : (s.setPixel row col on).font = s.font := by unfold setPixel; split <;> rfl
@[simp] theorem setPixel_loadable (row col : Nat) (on : Bool) : (s.setPixel row col on).loadable = s.loadable := by unfold setPixel; split <;> rfl
@[simp] theorem setPixel_env (row col : Nat) (on : Bool) : (s.setPixel row col on).env = s.env := by unfold setPixel; split <;> rfl
@[simp] theorem setPixel_outputs (row col : Nat) (on : Bool) : (s.setPixel row col on).outputs = s.outputs := by unfold setPixel; split <;> rfl
@[simp] theorem setPixel_readV (row col : Nat) (on : Bool) (r : RegIdx) : (s.setPixel row col on).readV r = s.readV r := by unfold setPixel; split <;> rfl
@[simp] theorem setPixel_memRead (row col : Nat) (on : Bool) (addr : Nat) : (s.setPixel row col on).memRead addr = s.memRead addr := by unfold setPixel; split <;> rfl

/-! ### flipPixel -/

@[simp] theorem flipPixel_v (row col : Nat) : (s.flipPixel row col).v = s.v := by simp [flipPixel]
@[simp] theorem flipPixel_i (row col : Nat) : (s.flipPixel row col).i = s.i := by simp [flipPixel]
@[simp] theorem flipPixel_pc (row col : Nat) : (s.flipPixel row col).pc = s.pc := by simp [flipPixel]
@[simp] theorem flipPixel_stack (row col : Nat) : (s.flipPixel row col).stack = s.stack := by simp [flipPixel]
@[simp] theorem flipPixel_sp (row col : Nat) : (s.flipPixel row col).sp = s.sp := by simp [flipPixel]
@[simp] theorem flipPixel_dt (row col : Nat) : (s.flipPixel row col).dt = s.dt := by simp [flipPixel]
@[simp] theorem flipPixel_st (row col : Nat) : (s.flipPixel row col).st = s.st := by simp [flipPixel]
@[simp] theorem flipPixel_wait (row col : Nat) : (s.flipPixel row col).wait = s.wait := by simp [flipPixel]
@[simp] theorem flipPixel_wreg (row col : Nat) : (s.flipPixel row col).wreg = s.wreg := by simp [flipPixel]
@[simp] theorem flipPixel_fault (row col : Nat) : (s.flipPixel row col).fault = s.fault := by simp [flipPixel]
@[simp] theorem flipPixel_mem (row col : Nat) : (s.flipPixel row col).mem = s.mem := by simp [flipPixel]
@[simp] theorem flipPixel_font (row col : Nat) : (s.flipPixel row col).font = s.font := by simp [flipPixel]
@[simp] theorem flipPixel_loadable (row col : Nat) : (s.flipPixel row col).loadable = s.loadable := by simp [flipPixel]
@[simp] theorem flipPixel_env (row col : Nat) : (s.flipPixel row col).env = s.env := by simp [flipPixel]
@[simp] theorem flipPixel_outputs (row col : Nat) : (s.flipPixel row col).outputs = s.outputs := by simp [flipPixel]
@[simp] theorem flipPixel_readV (row col : Nat) (r : RegIdx) : (s.flipPixel row col).readV r = s.readV r := by simp [flipPixel]
@[simp] theorem flipPixel_memRead (row col : Nat) (addr : Nat) : (s.flipPixel row col).memRead addr = s.memRead addr := by simp [flipPixel]

end Sys2Proof.Machine.State
end

