-- ==== Sys2Proof/Laws/Memory.lean ====
section
/-! SUPPORT. Memory: read after write, and the canonical form that every memory operation keeps. -/

namespace Sys2Proof.Machine

/-! ### The list -/

theorem Memory.find_put (m : Memory) (a b : Nat) (x : Byte) :
    Memory.find (Memory.put m a x) b = if b = a then some x else Memory.find m b := by
  induction m with
  | nil => simp [Memory.put, Memory.find]
  | cons c m ih =>
    obtain ⟨d, w⟩ := c
    grind [Memory.put, Memory.find]

theorem Memory.find_drop (m : Memory) (a b : Nat) :
    Memory.find (Memory.drop m a) b = if b = a then none else Memory.find m b := by
  induction m with
  | nil => simp [Memory.drop, Memory.find]
  | cons c m ih =>
    obtain ⟨d, w⟩ := c
    simp only [Memory.drop]
    by_cases h : a = d <;> by_cases h' : b = a <;> simp_all [Memory.find]

theorem Memory.mem_put {m : Memory} {a : Nat} {x : Byte} {p : Host.Cell} (h : p ∈ Memory.put m a x) :
    p = (a, x) ∨ p ∈ m := by
  induction m with
  | nil => simpa [Memory.put] using h
  | cons c m ih =>
    obtain ⟨d, w⟩ := c
    simp only [Memory.put] at h
    split_ifs at h <;> simp only [List.mem_cons] at h ⊢ <;> grind

theorem Memory.mem_drop {m : Memory} {a : Nat} {p : Host.Cell} (h : p ∈ Memory.drop m a) : p ∈ m := by
  induction m with
  | nil => simp [Memory.drop] at h
  | cons c m ih =>
    obtain ⟨d, w⟩ := c
    simp only [Memory.drop] at h
    split_ifs at h <;> simp only [List.mem_cons] at h ⊢ <;> grind

theorem Memory.put_pairwise {m : Memory} (hm : m.Pairwise (fun p q => p.1 < q.1)) (a : Nat) (x : Byte) :
    (Memory.put m a x).Pairwise (fun p q => p.1 < q.1) := by
  induction m with
  | nil => simp [Memory.put]
  | cons c m ih =>
    obtain ⟨d, w⟩ := c
    have hc := List.pairwise_cons.1 hm
    simp only [Memory.put]
    split_ifs with h1 h2
    · refine List.pairwise_cons.2 ⟨fun p hp => ?_, hm⟩
      rcases List.mem_cons.1 hp with rfl | hp
      · exact h1
      · exact Nat.lt_trans h1 (hc.1 p hp)
    · subst h2; exact List.pairwise_cons.2 ⟨hc.1, hc.2⟩
    · refine List.pairwise_cons.2 ⟨fun p hp => ?_, ih hc.2⟩
      rcases Memory.mem_put hp with rfl | hp
      · show d < a; omega
      · exact hc.1 p hp

theorem Memory.drop_pairwise {m : Memory} (hm : m.Pairwise (fun p q => p.1 < q.1)) (a : Nat) :
    (Memory.drop m a).Pairwise (fun p q => p.1 < q.1) := by
  induction m with
  | nil => simp [Memory.drop]
  | cons c m ih =>
    obtain ⟨d, w⟩ := c
    have hc := List.pairwise_cons.1 hm
    simp only [Memory.drop]
    split_ifs with h1
    · exact ih hc.2
    · exact List.pairwise_cons.2 ⟨fun p hp => hc.1 p (Memory.mem_drop hp), ih hc.2⟩

/-! ### Read after write, and the canonical form -/

/-- A read after a write gives the byte written at that address and the old byte elsewhere. -/
theorem Memory.read_write (font : Font) (m : Memory) (a b : Nat) (x : Byte) :
    Memory.read font (Memory.write font m a x) b = if b = a then x else Memory.read font m b := by
  unfold Memory.read Memory.write
  split_ifs with h1 h2 h2
  · rw [Memory.find_drop, if_pos h2]; simp [h1, h2]
  · rw [Memory.find_drop, if_neg h2]
  · rw [Memory.find_put, if_pos h2]; rfl
  · rw [Memory.find_put, if_neg h2]

/-- A write to the address space keeps the canonical form. -/
theorem Memory.wf_write {font : Font} {m : Memory} (hm : Memory.wf font m) {a : Nat} (ha : a < Config.memSize) (x : Byte) :
    Memory.wf font (Memory.write font m a x) := by
  unfold Memory.write
  split_ifs with h
  · exact ⟨Memory.drop_pairwise hm.1 a, fun p hp => hm.2 p (Memory.mem_drop hp)⟩
  · refine ⟨Memory.put_pairwise hm.1 a x, fun p hp => ?_⟩
    rcases Memory.mem_put hp with rfl | hp
    · exact ⟨ha, h⟩
    · exact hm.2 p hp

/-- Memory with nothing listed has the canonical form. -/
theorem Memory.wf_nil (font : Font) : Memory.wf font [] := by simp [Memory.wf]

/-! ### The machine's memory (R52) -/

theorem State.memRead_mod (s : State) (a : Nat) : s.memRead (a % Config.memSize) = s.memRead a := by
  simp [State.memRead]

/-- Two addresses with the same low 12 bits name the same byte (R52). -/
theorem State.memRead_congr (s : State) {a b : Nat} (h : a % 4096 = b % 4096) : s.memRead a = s.memRead b := by
  simp [State.memRead, h]

theorem State.memWf_memWrite {s : State} (h : s.memWf) (a : Nat) (x : Byte) : (s.memWrite a x).memWf :=
  Memory.wf_write h (Nat.mod_lt _ (by decide)) x

/-- A read after a write, as `MemRead` and `MemWrite` give it (R52). -/
theorem State.memRead_memWrite (s : State) (a b : Nat) (x : Byte) :
    (s.memWrite a x).memRead b = if b % 4096 = a % 4096 then x else s.memRead b := by
  simp only [State.memRead, State.memWrite_mem, State.memWrite_font]
  exact Memory.read_write s.font s.mem _ _ x

end Sys2Proof.Machine
end

