-- ==== Sys2Proof/Laws/Ops.lean ====
section
/-! SUPPORT. What each shared operation of Machine/Ops.lean does, said once. -/

namespace Sys2Proof.Machine

/-! ### Registers -/

/-- A register reads what was last written to it, every other register as before. -/
@[simp] theorem State.readV_setV (s : State) (x y : RegIdx) (b : Byte) :
    (s.setV x b).readV y = if y = x then b else s.readV y := by
  unfold State.readV State.setV
  simp only [Vector.getElem_set]
  by_cases h : y = x
  · simp [h]
  · have : ¬ x.toNat = y.toNat := fun e => h (BitVec.eq_of_toNat_eq e.symm)
    simp [h, this]

@[simp] theorem State.memRead_setV (s : State) (x : RegIdx) (b : Byte) (a : Nat) :
    (s.setV x b).memRead a = s.memRead a := rfl

/-- Writing a register's own value changes nothing. -/
@[simp] theorem State.setV_readV_self (s : State) (x : RegIdx) : s.setV x (s.readV x) = s := by
  simp [State.setV, State.readV]

/-- `finishV` is the register write and the advance. -/
theorem State.finishV_eq (s : State) (x : RegIdx) (b : Byte) : s.finishV x b = (s.setV x b).advance := rfl

/-! ### Program counter -/

/-- A skipping instruction ends at `PC + 4` when the condition holds, at `PC + 2` when not (R104). -/
theorem State.skipIf_advance_pc (s : State) (c : Bool) :
    (s.skipIf c).advance.pc = if c then s.pc + 4#16 else s.pc + 2#16 := by
  cases c
  · simp
  · simp [BitVec.add_assoc]

/-- A skipping instruction changes nothing but `PC`. -/
theorem State.skipIf_advance_eq (s : State) (c : Bool) :
    (s.skipIf c).advance = s.setPc (if c then s.pc + 4#16 else s.pc + 2#16) := by
  cases c
  · rfl
  · simp [State.skipIf, State.advance, State.setPc, BitVec.add_assoc]

/-! ### Memory -/

@[simp] theorem State.memWriteList_nil (s : State) (a : Nat) : s.memWriteList a [] = s := rfl

@[simp] theorem State.memWriteList_cons (s : State) (a : Nat) (x : Byte) (xs : List Byte) :
    s.memWriteList a (x :: xs) = (s.memWrite a x).memWriteList (a + 1) xs := rfl

/-- Storing bytes changes nothing but memory. -/
theorem State.memWriteList_eq (s : State) (a : Nat) (xs : List Byte) :
    s.memWriteList a xs = s.setMem (s.memWriteList a xs).mem := by
  induction xs generalizing s a with
  | nil => rfl
  | cons x xs ih => rw [State.memWriteList_cons, ih]; rfl

/-! #### The fields `memWriteList` leaves alone -/

@[simp] theorem State.memWriteList_v (s : State) (a : Nat) (xs : List Byte) : (s.memWriteList a xs).v = s.v := by
  rw [State.memWriteList_eq]; rfl
@[simp] theorem State.memWriteList_i (s : State) (a : Nat) (xs : List Byte) : (s.memWriteList a xs).i = s.i := by
  rw [State.memWriteList_eq]; rfl
@[simp] theorem State.memWriteList_pc (s : State) (a : Nat) (xs : List Byte) : (s.memWriteList a xs).pc = s.pc := by
  rw [State.memWriteList_eq]; rfl
@[simp] theorem State.memWriteList_stack (s : State) (a : Nat) (xs : List Byte) : (s.memWriteList a xs).stack = s.stack := by
  rw [State.memWriteList_eq]; rfl
@[simp] theorem State.memWriteList_sp (s : State) (a : Nat) (xs : List Byte) : (s.memWriteList a xs).sp = s.sp := by
  rw [State.memWriteList_eq]; rfl
@[simp] theorem State.memWriteList_dt (s : State) (a : Nat) (xs : List Byte) : (s.memWriteList a xs).dt = s.dt := by
  rw [State.memWriteList_eq]; rfl
@[simp] theorem State.memWriteList_st (s : State) (a : Nat) (xs : List Byte) : (s.memWriteList a xs).st = s.st := by
  rw [State.memWriteList_eq]; rfl
@[simp] theorem State.memWriteList_wait (s : State) (a : Nat) (xs : List Byte) : (s.memWriteList a xs).wait = s.wait := by
  rw [State.memWriteList_eq]; rfl
@[simp] theorem State.memWriteList_wreg (s : State) (a : Nat) (xs : List Byte) : (s.memWriteList a xs).wreg = s.wreg := by
  rw [State.memWriteList_eq]; rfl
@[simp] theorem State.memWriteList_fault (s : State) (a : Nat) (xs : List Byte) : (s.memWriteList a xs).fault = s.fault := by
  rw [State.memWriteList_eq]; rfl
@[simp] theorem State.memWriteList_fb (s : State) (a : Nat) (xs : List Byte) : (s.memWriteList a xs).fb = s.fb := by
  rw [State.memWriteList_eq]; rfl
@[simp] theorem State.memWriteList_font (s : State) (a : Nat) (xs : List Byte) : (s.memWriteList a xs).font = s.font := by
  rw [State.memWriteList_eq]; rfl
@[simp] theorem State.memWriteList_loadable (s : State) (a : Nat) (xs : List Byte) : (s.memWriteList a xs).loadable = s.loadable := by
  rw [State.memWriteList_eq]; rfl
@[simp] theorem State.memWriteList_env (s : State) (a : Nat) (xs : List Byte) : (s.memWriteList a xs).env = s.env := by
  rw [State.memWriteList_eq]; rfl
@[simp] theorem State.memWriteList_outputs (s : State) (a : Nat) (xs : List Byte) : (s.memWriteList a xs).outputs = s.outputs := by
  rw [State.memWriteList_eq]; rfl
@[simp] theorem State.memWriteList_readV (s : State) (a : Nat) (xs : List Byte) (r : RegIdx) :
    (s.memWriteList a xs).readV r = s.readV r := by
  rw [State.memWriteList_eq]; rfl
@[simp] theorem State.memWriteList_getPixel (s : State) (a : Nat) (xs : List Byte) (r c : Nat) :
    (s.memWriteList a xs).getPixel r c = s.getPixel r c := by
  rw [State.memWriteList_eq]; rfl

theorem State.memWf_memWriteList {s : State} (h : s.memWf) (a : Nat) (xs : List Byte) : (s.memWriteList a xs).memWf := by
  induction xs generalizing s a with
  | nil => exact h
  | cons x xs ih => exact ih (State.memWf_memWrite h a x) (a + 1)

/-- Bytes outside those stored read as before. -/
theorem State.memRead_memWriteList_of_not (s : State) (a b : Nat) (xs : List Byte)
    (h : ∀ k < xs.length, b % 4096 ≠ (a + k) % 4096) : (s.memWriteList a xs).memRead b = s.memRead b := by
  induction xs generalizing s a with
  | nil => rfl
  | cons x xs ih =>
    rw [State.memWriteList_cons, ih, State.memRead_memWrite, if_neg]
    · simpa using h 0 (by simp)
    · intro k hk
      have := h (k + 1) (by simpa using hk)
      rwa [Nat.add_assoc, Nat.add_comm 1 k]

/-- Each stored byte reads back, as long as the bytes do not wrap onto themselves. -/
theorem State.memRead_memWriteList (s : State) (a : Nat) (xs : List Byte) (hl : xs.length ≤ 4096) (k : Nat)
    (hk : k < xs.length) : (s.memWriteList a xs).memRead (a + k) = xs[k] := by
  induction xs generalizing s a k with
  | nil => simp at hk
  | cons x xs ih =>
    simp only [List.length_cons] at hl hk
    rw [State.memWriteList_cons]
    cases k with
    | zero =>
      rw [State.memRead_memWriteList_of_not, State.memRead_memWrite]
      · simp
      · intro k hk'; omega
    | succ k =>
      have := ih (s.memWrite a x) (a + 1) (by omega) k (by omega)
      rw [show a + (k + 1) = a + 1 + k by omega, this]; rfl

/-- The fetched word depends on `PC` and the two bytes there only (R53). -/
theorem State.fetch_congr {s t : State} (hpc : t.pc = s.pc) (hm : ∀ a, t.memRead a = s.memRead a) :
    t.fetch = s.fetch := by
  simp [State.fetch, hpc, hm]

/-! ### Display -/

/-- A pixel reads what was last written to it, inside the grid (R190). -/
theorem State.getPixel_setPixel (s : State) (row col r c : Nat) (on : Bool) :
    (s.setPixel row col on).getPixel r c = if r = row ∧ c = col ∧ r < 32 ∧ c < 64 then on else s.getPixel r c := by
  unfold State.setPixel
  by_cases h : row < 32 ∧ col < 64
  · rw [dif_pos h]
    unfold State.getPixel
    by_cases h' : r < 32 ∧ c < 64
    · simp only [dif_pos h', State.setFb_fb, Vector.getElem_set]
      by_cases hr : r = row
      · subst hr
        by_cases hc : c = col
        · subst hc; simp [h']
        · have : ¬ col = c := fun e => hc e.symm
          simp [hc, this]
      · have : ¬ row = r := fun e => hr e.symm
        simp [hr, this]
    · simp only [dif_neg h']
      have : ¬ (r = row ∧ c = col ∧ r < 32 ∧ c < 64) := fun e => h' e.2.2
      simp [this]
  · rw [dif_neg h]
    have : ¬ (r = row ∧ c = col ∧ r < 32 ∧ c < 64) := by rintro ⟨rfl, rfl, h'⟩; exact h h'
    simp [this]

/-- Outside the grid a pixel reads as off (R190). -/
theorem State.getPixel_out (s : State) (row col : Nat) (h : ¬ (row < 32 ∧ col < 64)) : s.getPixel row col = false := by
  unfold State.getPixel; rw [dif_neg h]

/-- A flip inverts its pixel, inside the grid (R190). -/
theorem State.getPixel_flipPixel (s : State) (row col r c : Nat) :
    (s.flipPixel row col).getPixel r c =
      (s.getPixel r c ^^ decide (r = row ∧ c = col ∧ r < 32 ∧ c < 64)) := by
  unfold State.flipPixel
  rw [State.getPixel_setPixel]
  split_ifs with h
  · obtain ⟨rfl, rfl, h1, h2⟩ := h; simp [h1, h2]
  · simp [h]

/-- After a clear every pixel reads as the value, inside the grid (R190). -/
theorem State.getPixel_clearDisplay (s : State) (on : Bool) (r c : Nat) :
    (s.clearDisplay on).getPixel r c = (on && decide (r < 32 ∧ c < 64)) := by
  unfold State.clearDisplay State.getPixel
  by_cases h : r < 32 ∧ c < 64 <;> simp [h]

/-! ### Ports -/

/-- A number above 15 is no key: not held, and the device is not asked (R217). -/
theorem Env.keyHeld_above (e : Env) (b : Byte) (h : 15 < b.toNat) : e.keyHeld b = (false, e) := by
  unfold Env.keyHeld; rw [if_neg (by omega)]

/-- Asking a port leaves the host's operations alone. -/
@[simp] theorem Env.random8_ops (e : Env) : e.random8.2.ops = e.ops := by
  unfold Env.random8; split <;> rfl

@[simp] theorem Env.keyReleased_ops (e : Env) : e.keyReleased.2.ops = e.ops := by
  unfold Env.keyReleased; split <;> rfl

@[simp] theorem Env.keyHeld_ops (e : Env) (b : Byte) : (e.keyHeld b).2.ops = e.ops := by
  unfold Env.keyHeld Env.askHeld; split
  · split <;> rfl
  · rfl

/-! ### Timers -/

theorem countDown_zero (t : Byte) : countDown 0 t = t := by
  unfold countDown; split_ifs with h
  · exact h.symm
  · simp

theorem countDown_succ (n : Nat) (t : Byte) : countDown (n + 1) t = countDown n (decTimer t) := by
  unfold countDown decTimer
  have hlt := t.isLt
  by_cases h : t = 0#8
  · subst h; rfl
  · have hp : 0 < t.toNat := by
      rcases Nat.eq_zero_or_pos t.toNat with e | e
      · exact absurd (BitVec.eq_of_toNat_eq (by simpa using e)) h
      · exact e
    have hs : (t - 1#8).toNat = t.toNat - 1 := by
      rw [BitVec.toNat_sub_of_le (by rw [BitVec.le_def]; exact hp)]; rfl
    rw [if_neg h, if_pos hp]
    split_ifs with h1
    · have : t.toNat - 1 = 0 := by rw [← hs, h1]; rfl
      have : t.toNat - (n + 1) = 0 := by omega
      rw [this]
    · rw [hs]; congr 1; omega

/-- `ticks n` is `n` invocations of `Tick` (R240). -/
theorem State.ticks_eq_iterate (s : State) (n : Nat) : s.ticks n = State.tick^[n] s := by
  induction n generalizing s with
  | zero =>
    show s.ticks 0 = s
    unfold State.ticks; split_ifs
    · simp [countDown_zero, State.setDt, State.setSt]
    · rfl
  | succ n ih =>
    rw [Function.iterate_succ_apply, ← ih]
    unfold State.ticks State.tick
    by_cases h : s.fault = 0#2
    · simp [h, countDown_succ, State.setDt, State.setSt]
    · rw [if_neg h, if_neg h, if_neg h]

/-- `ticks` changes nothing but the timers. -/
theorem State.ticks_eq (s : State) (n : Nat) : s.ticks n = (s.setDt (s.ticks n).dt).setSt (s.ticks n).st := by
  unfold State.ticks; split_ifs <;> rfl

@[simp] theorem State.ticks_v (s : State) (n : Nat) : (s.ticks n).v = s.v := by
  rw [State.ticks_eq]; rfl
@[simp] theorem State.ticks_i (s : State) (n : Nat) : (s.ticks n).i = s.i := by
  rw [State.ticks_eq]; rfl
@[simp] theorem State.ticks_pc (s : State) (n : Nat) : (s.ticks n).pc = s.pc := by
  rw [State.ticks_eq]; rfl
@[simp] theorem State.ticks_stack (s : State) (n : Nat) : (s.ticks n).stack = s.stack := by
  rw [State.ticks_eq]; rfl
@[simp] theorem State.ticks_sp (s : State) (n : Nat) : (s.ticks n).sp = s.sp := by
  rw [State.ticks_eq]; rfl
@[simp] theorem State.ticks_wait (s : State) (n : Nat) : (s.ticks n).wait = s.wait := by
  rw [State.ticks_eq]; rfl
@[simp] theorem State.ticks_wreg (s : State) (n : Nat) : (s.ticks n).wreg = s.wreg := by
  rw [State.ticks_eq]; rfl
@[simp] theorem State.ticks_fault (s : State) (n : Nat) : (s.ticks n).fault = s.fault := by
  rw [State.ticks_eq]; rfl
@[simp] theorem State.ticks_mem (s : State) (n : Nat) : (s.ticks n).mem = s.mem := by
  rw [State.ticks_eq]; rfl
@[simp] theorem State.ticks_fb (s : State) (n : Nat) : (s.ticks n).fb = s.fb := by
  rw [State.ticks_eq]; rfl
@[simp] theorem State.ticks_font (s : State) (n : Nat) : (s.ticks n).font = s.font := by
  rw [State.ticks_eq]; rfl
@[simp] theorem State.ticks_loadable (s : State) (n : Nat) : (s.ticks n).loadable = s.loadable := by
  rw [State.ticks_eq]; rfl
@[simp] theorem State.ticks_env (s : State) (n : Nat) : (s.ticks n).env = s.env := by
  rw [State.ticks_eq]; rfl
@[simp] theorem State.ticks_outputs (s : State) (n : Nat) : (s.ticks n).outputs = s.outputs := by
  rw [State.ticks_eq]; rfl

end Sys2Proof.Machine
end

