-- ==== Sys2Proof/Laws/Loops.lean ====
section
/-! SUPPORT. What the transfer loops of `Fx55`, `Fx65` and the drawing loops of `Dxyn` do. -/

namespace Sys2Proof.Machine

/-! ### `Fx55`: storing registers (R174) -/

/-- Storing registers changes nothing but memory. -/
theorem State.storeV_eq (s : State) (base n : Nat) : s.storeV base n = s.setMem (s.storeV base n).mem := by
  induction n with
  | zero => rfl
  | succ n ih => rw [State.storeV]; rw [ih]; rfl

@[simp] theorem State.storeV_readV (s : State) (base n : Nat) (r : RegIdx) : (s.storeV base n).readV r = s.readV r := by
  rw [State.storeV_eq]; rfl

theorem State.memWf_storeV {s : State} (h : s.memWf) (base n : Nat) : (s.storeV base n).memWf := by
  induction n with
  | zero => exact h
  | succ n ih => exact State.memWf_memWrite ih _ _

/-- Bytes outside those stored read as before. -/
theorem State.memRead_storeV_of_not (s : State) (base n a : Nat) (h : ∀ k < n, a % 4096 ≠ (base + k) % 4096) :
    (s.storeV base n).memRead a = s.memRead a := by
  induction n with
  | zero => rfl
  | succ n ih =>
    rw [State.storeV, State.memRead_memWrite, if_neg (h n (by omega)), ih fun k hk => h k (by omega)]

/-- Byte `k` of the block holds `V[k]`. -/
theorem State.memRead_storeV (s : State) (base n k : Nat) (hn : n ≤ 16) (hk : k < n) :
    (s.storeV base n).memRead (base + k) = s.readV (BitVec.ofNat 4 k) := by
  induction n with
  | zero => omega
  | succ n ih =>
    rw [State.storeV, State.memRead_memWrite]
    by_cases h : k = n
    · subst h; simp
    · rw [if_neg (by omega), ih (by omega) (by omega)]

/-! #### The fields `storeV` leaves alone -/

@[simp] theorem State.storeV_v (s : State) (base n : Nat) : (s.storeV base n).v = s.v := by
  rw [State.storeV_eq]; rfl
@[simp] theorem State.storeV_i (s : State) (base n : Nat) : (s.storeV base n).i = s.i := by
  rw [State.storeV_eq]; rfl
@[simp] theorem State.storeV_pc (s : State) (base n : Nat) : (s.storeV base n).pc = s.pc := by
  rw [State.storeV_eq]; rfl
@[simp] theorem State.storeV_stack (s : State) (base n : Nat) : (s.storeV base n).stack = s.stack := by
  rw [State.storeV_eq]; rfl
@[simp] theorem State.storeV_sp (s : State) (base n : Nat) : (s.storeV base n).sp = s.sp := by
  rw [State.storeV_eq]; rfl
@[simp] theorem State.storeV_dt (s : State) (base n : Nat) : (s.storeV base n).dt = s.dt := by
  rw [State.storeV_eq]; rfl
@[simp] theorem State.storeV_st (s : State) (base n : Nat) : (s.storeV base n).st = s.st := by
  rw [State.storeV_eq]; rfl
@[simp] theorem State.storeV_wait (s : State) (base n : Nat) : (s.storeV base n).wait = s.wait := by
  rw [State.storeV_eq]; rfl
@[simp] theorem State.storeV_wreg (s : State) (base n : Nat) : (s.storeV base n).wreg = s.wreg := by
  rw [State.storeV_eq]; rfl
@[simp] theorem State.storeV_fault (s : State) (base n : Nat) : (s.storeV base n).fault = s.fault := by
  rw [State.storeV_eq]; rfl
@[simp] theorem State.storeV_fb (s : State) (base n : Nat) : (s.storeV base n).fb = s.fb := by
  rw [State.storeV_eq]; rfl
@[simp] theorem State.storeV_font (s : State) (base n : Nat) : (s.storeV base n).font = s.font := by
  rw [State.storeV_eq]; rfl
@[simp] theorem State.storeV_loadable (s : State) (base n : Nat) : (s.storeV base n).loadable = s.loadable := by
  rw [State.storeV_eq]; rfl
@[simp] theorem State.storeV_env (s : State) (base n : Nat) : (s.storeV base n).env = s.env := by
  rw [State.storeV_eq]; rfl
@[simp] theorem State.storeV_outputs (s : State) (base n : Nat) : (s.storeV base n).outputs = s.outputs := by
  rw [State.storeV_eq]; rfl
@[simp] theorem State.storeV_getPixel (s : State) (base n r c : Nat) : (s.storeV base n).getPixel r c = s.getPixel r c := by
  rw [State.storeV_eq]; rfl

/-! ### `Fx65`: loading registers (R175) -/

/-- Loading registers changes nothing but the registers. -/
theorem State.loadV_eq (s : State) (base n : Nat) : s.loadV base n = { s with v := (s.loadV base n).v } := by
  induction n with
  | zero => rfl
  | succ n ih => rw [State.loadV]; rw [ih]; rfl

@[simp] theorem State.loadV_memRead (s : State) (base n a : Nat) : (s.loadV base n).memRead a = s.memRead a := by
  rw [State.loadV_eq]; rfl

/-- The first `n` registers hold the bytes of the block, the others are unchanged. -/
theorem State.readV_loadV (s : State) (base n : Nat) (hn : n ≤ 16) (r : RegIdx) :
    (s.loadV base n).readV r = if r.toNat < n then s.memRead (base + r.toNat) else s.readV r := by
  induction n with
  | zero => simp [State.loadV]
  | succ n ih =>
    rw [State.loadV, State.readV_setV, State.loadV_memRead, ih (by omega)]
    have hr := r.isLt
    by_cases h : r.toNat = n
    · have : r = BitVec.ofNat 4 n := by apply BitVec.eq_of_toNat_eq; rw [BitVec.toNat_ofNat]; omega
      rw [if_pos this, if_pos (by omega), h]
    · have : ¬ r = BitVec.ofNat 4 n := by
        intro e; apply h; rw [e, BitVec.toNat_ofNat]; omega
      rw [if_neg this]
      by_cases h' : r.toNat < n
      · rw [if_pos h', if_pos (by omega)]
      · rw [if_neg h', if_neg (by omega)]

/-! #### The fields `loadV` leaves alone -/

@[simp] theorem State.loadV_i (s : State) (base n : Nat) : (s.loadV base n).i = s.i := by
  rw [State.loadV_eq]
@[simp] theorem State.loadV_pc (s : State) (base n : Nat) : (s.loadV base n).pc = s.pc := by
  rw [State.loadV_eq]
@[simp] theorem State.loadV_stack (s : State) (base n : Nat) : (s.loadV base n).stack = s.stack := by
  rw [State.loadV_eq]
@[simp] theorem State.loadV_sp (s : State) (base n : Nat) : (s.loadV base n).sp = s.sp := by
  rw [State.loadV_eq]
@[simp] theorem State.loadV_dt (s : State) (base n : Nat) : (s.loadV base n).dt = s.dt := by
  rw [State.loadV_eq]
@[simp] theorem State.loadV_st (s : State) (base n : Nat) : (s.loadV base n).st = s.st := by
  rw [State.loadV_eq]
@[simp] theorem State.loadV_wait (s : State) (base n : Nat) : (s.loadV base n).wait = s.wait := by
  rw [State.loadV_eq]
@[simp] theorem State.loadV_wreg (s : State) (base n : Nat) : (s.loadV base n).wreg = s.wreg := by
  rw [State.loadV_eq]
@[simp] theorem State.loadV_fault (s : State) (base n : Nat) : (s.loadV base n).fault = s.fault := by
  rw [State.loadV_eq]
@[simp] theorem State.loadV_mem (s : State) (base n : Nat) : (s.loadV base n).mem = s.mem := by
  rw [State.loadV_eq]
@[simp] theorem State.loadV_fb (s : State) (base n : Nat) : (s.loadV base n).fb = s.fb := by
  rw [State.loadV_eq]
@[simp] theorem State.loadV_font (s : State) (base n : Nat) : (s.loadV base n).font = s.font := by
  rw [State.loadV_eq]
@[simp] theorem State.loadV_loadable (s : State) (base n : Nat) : (s.loadV base n).loadable = s.loadable := by
  rw [State.loadV_eq]
@[simp] theorem State.loadV_env (s : State) (base n : Nat) : (s.loadV base n).env = s.env := by
  rw [State.loadV_eq]
@[simp] theorem State.loadV_outputs (s : State) (base n : Nat) : (s.loadV base n).outputs = s.outputs := by
  rw [State.loadV_eq]
@[simp] theorem State.loadV_getPixel (s : State) (base n r c : Nat) : (s.loadV base n).getPixel r c = s.getPixel r c := by
  rw [State.loadV_eq]; rfl

/-! ### `Dxyn`: drawing (R193) -/

/-- Drawing a pixel changes nothing but VF and the framebuffer. -/
theorem State.drawPixel_eq (s : State) (row col : Nat) :
    s.drawPixel row col =
      (s.setV vf (if s.getPixel row col then 1#8 else s.readV vf)).setFb (s.drawPixel row col).fb := by
  unfold State.drawPixel
  cases h : s.getPixel row col
  · simp only [Bool.false_eq_true, if_false, State.setV_readV_self]
    unfold State.flipPixel State.setPixel; split <;> rfl
  · simp only [if_true]
    unfold State.flipPixel State.setPixel; split <;> rfl

theorem State.readV_drawPixel (s : State) (row col : Nat) (r : RegIdx) :
    (s.drawPixel row col).readV r = if r = vf ∧ s.getPixel row col = true then 1#8 else s.readV r := by
  rw [State.drawPixel_eq]
  by_cases h : r = vf <;> by_cases h' : s.getPixel row col = true <;> simp [h, h']

theorem State.getPixel_drawPixel (s : State) (row col r c : Nat) :
    (s.drawPixel row col).getPixel r c = (s.getPixel r c ^^ decide (r = row ∧ c = col ∧ r < 32 ∧ c < 64)) := by
  unfold State.drawPixel
  rw [State.getPixel_flipPixel]
  split_ifs <;> simp

/-- Drawing columns changes nothing but VF and the framebuffer. -/
theorem State.drawCols_eq (s : State) (b : Byte) (row col n : Nat) :
    s.drawCols b row col n =
      (s.setV vf ((s.drawCols b row col n).readV vf)).setFb (s.drawCols b row col n).fb := by
  induction n with
  | zero => simp only [State.drawCols, State.setV_readV_self]; rfl
  | succ n ih =>
    simp only [State.drawCols]
    split_ifs
    · rw [State.drawPixel_eq]
      generalize (s.drawCols b row col n).drawPixel row (col + n) = u
      rw [ih]
      simp [State.setV, State.setFb, State.readV]
    · exact ih

@[simp] theorem State.drawCols_memRead (s : State) (b : Byte) (row col n a : Nat) :
    (s.drawCols b row col n).memRead a = s.memRead a := by
  rw [State.drawCols_eq]; rfl

@[simp] theorem State.drawCols_i (s : State) (b : Byte) (row col n : Nat) : (s.drawCols b row col n).i = s.i := by
  rw [State.drawCols_eq]; rfl

/-- The pixels after `n` columns of a sprite byte: each set bit flips its pixel, inside the grid. -/
theorem State.getPixel_drawCols (s : State) (b : Byte) (row col n r c : Nat) :
    (s.drawCols b row col n).getPixel r c =
      (s.getPixel r c ^^
        decide (r = row ∧ col ≤ c ∧ c < col + n ∧ spriteBit b (c - col) = true ∧ r < 32 ∧ c < 64)) := by
  induction n with
  | zero =>
    have : ¬ (r = row ∧ col ≤ c ∧ c < col + 0 ∧ spriteBit b (c - col) = true ∧ r < 32 ∧ c < 64) := by omega
    simp only [State.drawCols, this, decide_false, Bool.xor_false]
  | succ n ih =>
    simp only [State.drawCols]
    by_cases hc : c = col + n
    · subst hc
      have h0 : ¬ (r = row ∧ col ≤ col + n ∧ col + n < col + n ∧ spriteBit b (col + n - col) = true ∧
        r < 32 ∧ col + n < 64) := by omega
      have hs : col + n - col = n := by omega
      cases hb : spriteBit b n
      · simp [ih, hs, hb]
      · rw [if_pos rfl, State.getPixel_drawPixel, ih]
        simp [hs, hb]
    · have e : c < col + (n + 1) ↔ c < col + n := by omega
      simp only [e]
      split_ifs
      · rw [State.getPixel_drawPixel, ih]; simp [hc]
      · exact ih

/-- VF after `n` columns: 1 if a set bit fell on a pixel that was on, else as before. -/
theorem State.readV_drawCols (s : State) (b : Byte) (row col n : Nat) (r : RegIdx) :
    (s.drawCols b row col n).readV r =
      if r = vf ∧ ∃ c < n, spriteBit b c = true ∧ s.getPixel row (col + c) = true then 1#8 else s.readV r := by
  induction n with
  | zero => simp [State.drawCols]
  | succ n ih =>
    have hpix : (s.drawCols b row col n).getPixel row (col + n) = s.getPixel row (col + n) := by
      rw [State.getPixel_drawCols]; simp
    simp only [State.drawCols]
    have hex : (∃ c < n + 1, spriteBit b c = true ∧ s.getPixel row (col + c) = true) ↔
        (∃ c < n, spriteBit b c = true ∧ s.getPixel row (col + c) = true) ∨
        (spriteBit b n = true ∧ s.getPixel row (col + n) = true) := by
      constructor
      · rintro ⟨c, hc, h⟩
        by_cases e : c = n
        · subst e; exact .inr h
        · exact .inl ⟨c, by omega, h⟩
      · rintro (⟨c, hc, h⟩ | h)
        · exact ⟨c, by omega, h⟩
        · exact ⟨n, by omega, h⟩
    simp only [hex]
    by_cases hb : spriteBit b n = true
    · rw [if_pos hb, State.readV_drawPixel, hpix, ih]
      by_cases hr : r = vf <;> by_cases hp : s.getPixel row (col + n) = true <;> simp [hr, hp, hb]
    · rw [if_neg hb, ih]; simp [hb]

/-- Drawing rows changes nothing but VF and the framebuffer. -/
theorem State.drawRows_eq (s : State) (row col n : Nat) :
    s.drawRows row col n = (s.setV vf ((s.drawRows row col n).readV vf)).setFb (s.drawRows row col n).fb := by
  induction n with
  | zero => simp only [State.drawRows, State.setV_readV_self]; rfl
  | succ n ih =>
    simp only [State.drawRows]
    rw [State.drawCols_eq]
    generalize State.drawCols _ _ _ _ 8 = u
    rw [ih]
    simp [State.setV, State.setFb, State.readV]

@[simp] theorem State.drawRows_memRead (s : State) (row col n a : Nat) :
    (s.drawRows row col n).memRead a = s.memRead a := by
  rw [State.drawRows_eq]; rfl

@[simp] theorem State.drawRows_i (s : State) (row col n : Nat) : (s.drawRows row col n).i = s.i := by
  rw [State.drawRows_eq]; rfl

/-! #### The fields `drawRows` leaves alone -/

@[simp] theorem State.drawRows_pc (s : State) (row col n : Nat) : (s.drawRows row col n).pc = s.pc := by
  rw [State.drawRows_eq]; rfl
@[simp] theorem State.drawRows_stack (s : State) (row col n : Nat) : (s.drawRows row col n).stack = s.stack := by
  rw [State.drawRows_eq]; rfl
@[simp] theorem State.drawRows_sp (s : State) (row col n : Nat) : (s.drawRows row col n).sp = s.sp := by
  rw [State.drawRows_eq]; rfl
@[simp] theorem State.drawRows_dt (s : State) (row col n : Nat) : (s.drawRows row col n).dt = s.dt := by
  rw [State.drawRows_eq]; rfl
@[simp] theorem State.drawRows_st (s : State) (row col n : Nat) : (s.drawRows row col n).st = s.st := by
  rw [State.drawRows_eq]; rfl
@[simp] theorem State.drawRows_wait (s : State) (row col n : Nat) : (s.drawRows row col n).wait = s.wait := by
  rw [State.drawRows_eq]; rfl
@[simp] theorem State.drawRows_wreg (s : State) (row col n : Nat) : (s.drawRows row col n).wreg = s.wreg := by
  rw [State.drawRows_eq]; rfl
@[simp] theorem State.drawRows_fault (s : State) (row col n : Nat) : (s.drawRows row col n).fault = s.fault := by
  rw [State.drawRows_eq]; rfl
@[simp] theorem State.drawRows_mem (s : State) (row col n : Nat) : (s.drawRows row col n).mem = s.mem := by
  rw [State.drawRows_eq]; rfl
@[simp] theorem State.drawRows_font (s : State) (row col n : Nat) : (s.drawRows row col n).font = s.font := by
  rw [State.drawRows_eq]; rfl
@[simp] theorem State.drawRows_loadable (s : State) (row col n : Nat) : (s.drawRows row col n).loadable = s.loadable := by
  rw [State.drawRows_eq]; rfl
@[simp] theorem State.drawRows_env (s : State) (row col n : Nat) : (s.drawRows row col n).env = s.env := by
  rw [State.drawRows_eq]; rfl
@[simp] theorem State.drawRows_outputs (s : State) (row col n : Nat) : (s.drawRows row col n).outputs = s.outputs := by
  rw [State.drawRows_eq]; rfl

/-- The pixels after `n` rows of a sprite: each set bit flips its pixel, inside the grid. -/
theorem State.getPixel_drawRows (s : State) (row col n r c : Nat) :
    (s.drawRows row col n).getPixel r c = (s.getPixel r c ^^ decide (s.spriteCovers row col n r c)) := by
  unfold State.spriteCovers
  induction n with
  | zero =>
    have : ¬ (row ≤ r ∧ r < row + 0 ∧ col ≤ c ∧ c < col + 8 ∧ s.spriteAt (r - row) (c - col) = true ∧
      r < 32 ∧ c < 64) := by omega
    simp only [State.drawRows, this, decide_false, Bool.xor_false]
  | succ n ih =>
    simp only [State.drawRows, State.getPixel_drawCols, ih, State.drawRows_memRead, State.dataAddr, State.drawRows_i]
    by_cases hr : r = row + n
    · subst hr
      have hs : row + n - row = n := by omega
      simp [hs, State.spriteAt, State.dataAddr]
    · have e : r < row + (n + 1) ↔ r < row + n := by omega
      simp only [e]
      simp [hr]

theorem State.collides_succ (s : State) (row col n : Nat) :
    s.collides row col (n + 1) ↔ s.collides row col n ∨
      ∃ c < 8, s.spriteAt n c = true ∧ s.getPixel (row + n) (col + c) = true := by
  constructor
  · rintro ⟨r, hr, h⟩
    by_cases e : r = n
    · subst e; exact .inr h
    · exact .inl ⟨r, by omega, h⟩
  · rintro (⟨r, hr, h⟩ | h)
    · exact ⟨r, by omega, h⟩
    · exact ⟨n, by omega, h⟩

/-- Drawing writes no register but VF. -/
theorem State.readV_drawRows_of_ne (s : State) (row col n : Nat) {x : RegIdx} (h : x ≠ vf) :
    (s.drawRows row col n).readV x = s.readV x := by
  rw [State.drawRows_eq]; simp [h]

/-- VF after `n` rows: 1 after a collision, else as before. -/
theorem State.vf_drawRows (s : State) (row col n : Nat) :
    (s.collides row col n → (s.drawRows row col n).readV vf = 1#8) ∧
    (¬ s.collides row col n → (s.drawRows row col n).readV vf = s.readV vf) := by
  induction n with
  | zero => exact ⟨fun ⟨r, hr, _⟩ => absurd hr (by omega), fun _ => rfl⟩
  | succ n ih =>
    have hpix : ∀ c, (s.drawRows row col n).getPixel (row + n) (col + c) = s.getPixel (row + n) (col + c) := by
      intro c; rw [State.getPixel_drawRows]; simp
    rw [State.collides_succ]
    simp only [State.drawRows, State.readV_drawCols, hpix, true_and]
    have hs : ∀ c, spriteBit ((s.drawRows row col n).memRead ((s.drawRows row col n).dataAddr n)) c = s.spriteAt n c := by
      intro c; simp [State.spriteAt, State.dataAddr]
    simp only [hs]
    split_ifs with h
    · exact ⟨fun _ => rfl, fun hn => absurd (.inr h) hn⟩
    · exact ⟨fun hh => ih.1 (hh.resolve_right h), fun hn => ih.2 fun hc => hn (.inl hc)⟩

end Sys2Proof.Machine
end

