-- ==== Sys2Proof/Laws/Cycle.lean ====
section
/-! SUPPORT. A step and the host's operations: what they do to each field, and the two ways a step begins. -/

namespace Sys2Proof.Machine

/-! ### Taking an operation from the host's list changes nothing but that list -/

@[simp] theorem State.withOps_v (s : State) (ops : List HostOp) : (s.withOps ops).v = s.v := rfl
@[simp] theorem State.withOps_i (s : State) (ops : List HostOp) : (s.withOps ops).i = s.i := rfl
@[simp] theorem State.withOps_pc (s : State) (ops : List HostOp) : (s.withOps ops).pc = s.pc := rfl
@[simp] theorem State.withOps_stack (s : State) (ops : List HostOp) : (s.withOps ops).stack = s.stack := rfl
@[simp] theorem State.withOps_sp (s : State) (ops : List HostOp) : (s.withOps ops).sp = s.sp := rfl
@[simp] theorem State.withOps_dt (s : State) (ops : List HostOp) : (s.withOps ops).dt = s.dt := rfl
@[simp] theorem State.withOps_st (s : State) (ops : List HostOp) : (s.withOps ops).st = s.st := rfl
@[simp] theorem State.withOps_wait (s : State) (ops : List HostOp) : (s.withOps ops).wait = s.wait := rfl
@[simp] theorem State.withOps_wreg (s : State) (ops : List HostOp) : (s.withOps ops).wreg = s.wreg := rfl
@[simp] theorem State.withOps_fault (s : State) (ops : List HostOp) : (s.withOps ops).fault = s.fault := rfl
@[simp] theorem State.withOps_mem (s : State) (ops : List HostOp) : (s.withOps ops).mem = s.mem := rfl
@[simp] theorem State.withOps_fb (s : State) (ops : List HostOp) : (s.withOps ops).fb = s.fb := rfl
@[simp] theorem State.withOps_font (s : State) (ops : List HostOp) : (s.withOps ops).font = s.font := rfl
@[simp] theorem State.withOps_loadable (s : State) (ops : List HostOp) : (s.withOps ops).loadable = s.loadable := rfl
@[simp] theorem State.withOps_outputs (s : State) (ops : List HostOp) : (s.withOps ops).outputs = s.outputs := rfl
@[simp] theorem State.withOps_env (s : State) (ops : List HostOp) :
    (s.withOps ops).env = { s.env with ops := ops } := rfl
@[simp] theorem State.withOps_readV (s : State) (ops : List HostOp) (r : RegIdx) :
    (s.withOps ops).readV r = s.readV r := rfl
@[simp] theorem State.withOps_memRead (s : State) (ops : List HostOp) (a : Nat) :
    (s.withOps ops).memRead a = s.memRead a := rfl
@[simp] theorem State.withOps_getPixel (s : State) (ops : List HostOp) (r c : Nat) :
    (s.withOps ops).getPixel r c = s.getPixel r c := rfl
@[simp] theorem State.withOps_fetch (s : State) (ops : List HostOp) : (s.withOps ops).fetch = s.fetch := rfl

/-! ### Free `Tick`s change nothing but the timers and the count of free values -/

@[simp] theorem State.freeTicks_v (s : State) : s.freeTicks.v = s.v := by simp [State.freeTicks]
@[simp] theorem State.freeTicks_i (s : State) : s.freeTicks.i = s.i := by simp [State.freeTicks]
@[simp] theorem State.freeTicks_pc (s : State) : s.freeTicks.pc = s.pc := by simp [State.freeTicks]
@[simp] theorem State.freeTicks_stack (s : State) : s.freeTicks.stack = s.stack := by simp [State.freeTicks]
@[simp] theorem State.freeTicks_sp (s : State) : s.freeTicks.sp = s.sp := by simp [State.freeTicks]
@[simp] theorem State.freeTicks_wait (s : State) : s.freeTicks.wait = s.wait := by simp [State.freeTicks]
@[simp] theorem State.freeTicks_wreg (s : State) : s.freeTicks.wreg = s.wreg := by simp [State.freeTicks]
@[simp] theorem State.freeTicks_fault (s : State) : s.freeTicks.fault = s.fault := by simp [State.freeTicks]
@[simp] theorem State.freeTicks_mem (s : State) : s.freeTicks.mem = s.mem := by simp [State.freeTicks]
@[simp] theorem State.freeTicks_fb (s : State) : s.freeTicks.fb = s.fb := by simp [State.freeTicks]
@[simp] theorem State.freeTicks_font (s : State) : s.freeTicks.font = s.font := by simp [State.freeTicks]
@[simp] theorem State.freeTicks_loadable (s : State) : s.freeTicks.loadable = s.loadable := by simp [State.freeTicks]
@[simp] theorem State.freeTicks_outputs (s : State) : s.freeTicks.outputs = s.outputs := by simp [State.freeTicks]
@[simp] theorem State.freeTicks_env (s : State) : s.freeTicks.env = { s.env with drawn := s.env.drawn + 1 } := rfl
@[simp] theorem State.freeTicks_readV (s : State) (r : RegIdx) : s.freeTicks.readV r = s.readV r := by
  simp [State.readV]
@[simp] theorem State.freeTicks_memRead (s : State) (a : Nat) : s.freeTicks.memRead a = s.memRead a := by
  simp [State.memRead]
@[simp] theorem State.freeTicks_getPixel (s : State) (r c : Nat) : s.freeTicks.getPixel r c = s.getPixel r c := by
  simp [State.getPixel]
@[simp] theorem State.freeTicks_fetch (s : State) : s.freeTicks.fetch = s.fetch := by simp [State.fetch]

/-! ### A step -/

/-- With an operation listed, a step performs it (R10). -/
theorem step_cons {s : State} {op : HostOp} {ops : List HostOp} (h : s.env.ops = op :: ops) :
    step s = (s.withOps ops).perform op := by
  simp only [step, State.nextOperation, h]

/-- With nothing listed, a step is a free number of `Tick`s and a `Cycle` (R278). -/
theorem step_nil {s : State} (h : s.env.ops = []) : step s = s.freeTicks.cycle := by
  simp only [step, State.nextOperation, h]

/-- A faulted core does nothing in a `Cycle` (R106). -/
theorem State.cycle_faulted {s : State} (h : s.fault ≠ 0#2) : s.cycle = .next s := by
  unfold State.cycle; rw [if_neg h]

/-- On a core that is not faulted a `Cycle` is `exec` of the word at `PC` (R100). -/
theorem State.cycle_running {s : State} (h : s.fault = 0#2) :
    s.cycle = exec (decodeWord s.fetch) (s.setLoadable false) := by
  unfold State.cycle; rw [if_pos h]

/-- A faulted core does nothing in a `Tick` (R240). -/
theorem State.tick_faulted {s : State} (h : s.fault ≠ 0#2) : s.tick = s := by
  unfold State.tick; rw [if_neg h]

/-- On a core that is not faulted a `Tick` counts both timers (R240). -/
theorem State.tick_running {s : State} (h : s.fault = 0#2) :
    s.tick = (s.setDt (decTimer s.dt)).setSt (decTimer s.st) := by
  unfold State.tick; rw [if_pos h]

/-- A timer above 0 counts down by one, a timer at 0 stays (R240). -/
@[simp] theorem toNat_decTimer (t : Byte) : (decTimer t).toNat = t.toNat - 1 := by
  unfold decTimer; split
  · simp [BitVec.toNat_sub]; omega
  · omega

/-- The three ways a `LoadRom` ends (R58, R249). -/
theorem State.loadRom_cases (s : State) (bytes : List Byte) :
    (s.loadable = false ∧ s.loadRom bytes = .refused .loadRomNotAtBoot) ∨
    (s.loadable = true ∧ 3584 < bytes.length ∧ s.loadRom bytes = .refused .romTooLong) ∨
    (s.loadable = true ∧ bytes.length ≤ 3584 ∧
      s.loadRom bytes = .next ((s.memWriteList 0x200 bytes).setLoadable false)) := by
  unfold State.loadRom
  cases h : s.loadable
  · exact .inl ⟨rfl, if_pos rfl⟩
  · refine .inr ?_
    rw [if_neg (by decide)]
    by_cases hl : 3584 < bytes.length
    · exact .inl ⟨rfl, hl, if_pos hl⟩
    · exact .inr ⟨rfl, by omega, if_neg hl⟩

end Sys2Proof.Machine
end

