-- ==== Sys2Proof/Laws/Decode.lean ====
section
/-! SUPPORT. The fields of a packed word (R81, R82). -/

namespace Sys2Proof

/-! ### Format A -/

@[simp] theorem fieldTop_packA (t : Nibble) (a : Addr) : fieldTop (packA t a) = t := by
  apply BitVec.eq_of_getLsbD_eq
  intro i hi
  simp only [fieldTop, packA, BitVec.getLsbD_extractLsb', BitVec.getLsbD_append]
  have : ¬ 12 + i < 12 := by omega
  simp [hi, this]

@[simp] theorem fieldNnn_packA (t : Nibble) (a : Addr) : fieldNnn (packA t a) = a := by
  apply BitVec.eq_of_getLsbD_eq
  intro i hi
  simp only [fieldNnn, packA, BitVec.getLsbD_extractLsb', BitVec.getLsbD_append]
  simp [hi]

/-! ### Formats XK and X -/

@[simp] theorem fieldTop_packXK (t : Nibble) (x : RegIdx) (k : Byte) : fieldTop (packXK t x k) = t := by
  apply BitVec.eq_of_getLsbD_eq
  intro i hi
  simp only [fieldTop, packXK, BitVec.getLsbD_extractLsb', BitVec.getLsbD_append]
  have h1 : ¬ 12 + i < 8 := by omega
  have h2 : ¬ 12 + i - 8 < 4 := by omega
  have h3 : 12 + i - 8 - 4 = i := by omega
  simp [hi, h1, h2, h3]

@[simp] theorem fieldX_packXK (t : Nibble) (x : RegIdx) (k : Byte) : fieldX (packXK t x k) = x := by
  apply BitVec.eq_of_getLsbD_eq
  intro i hi
  simp only [fieldX, packXK, BitVec.getLsbD_extractLsb', BitVec.getLsbD_append]
  simp [hi]

@[simp] theorem fieldKk_packXK (t : Nibble) (x : RegIdx) (k : Byte) : fieldKk (packXK t x k) = k := by
  apply BitVec.eq_of_getLsbD_eq
  intro i hi
  simp only [fieldKk, packXK, BitVec.getLsbD_extractLsb', BitVec.getLsbD_append]
  simp [hi]

/-! ### Formats XY and XYN -/

@[simp] theorem fieldTop_packXYN (t : Nibble) (x y : RegIdx) (n : Nibble) : fieldTop (packXYN t x y n) = t := by
  apply BitVec.eq_of_getLsbD_eq
  intro i hi
  simp only [fieldTop, packXYN, BitVec.getLsbD_extractLsb', BitVec.getLsbD_append]
  have h1 : ¬ 12 + i < 4 := by omega
  have h2 : ¬ 12 + i - 4 < 4 := by omega
  have h3 : ¬ 12 + i - 4 - 4 < 4 := by omega
  have h4 : 12 + i - 4 - 4 - 4 = i := by omega
  simp [hi, h1, h2, h3, h4]

@[simp] theorem fieldX_packXYN (t : Nibble) (x y : RegIdx) (n : Nibble) : fieldX (packXYN t x y n) = x := by
  apply BitVec.eq_of_getLsbD_eq
  intro i hi
  simp only [fieldX, packXYN, BitVec.getLsbD_extractLsb', BitVec.getLsbD_append]
  have h1 : ¬ 8 + i < 4 := by omega
  have h2 : ¬ 8 + i - 4 < 4 := by omega
  have h3 : 8 + i - 4 - 4 = i := by omega
  simp [hi, h1, h2, h3]

@[simp] theorem fieldY_packXYN (t : Nibble) (x y : RegIdx) (n : Nibble) : fieldY (packXYN t x y n) = y := by
  apply BitVec.eq_of_getLsbD_eq
  intro i hi
  simp only [fieldY, packXYN, BitVec.getLsbD_extractLsb', BitVec.getLsbD_append]
  simp [hi]

@[simp] theorem fieldN_packXYN (t : Nibble) (x y : RegIdx) (n : Nibble) : fieldN (packXYN t x y n) = n := by
  apply BitVec.eq_of_getLsbD_eq
  intro i hi
  simp only [fieldN, packXYN, BitVec.getLsbD_extractLsb', BitVec.getLsbD_append]
  simp [hi]

/-! ### Bytes and words -/

/-- The bytes of a word give the word back (R80). -/
@[simp] theorem wordOfBytes_bytes (op : Word) : wordOfBytes (op.extractLsb' 8 8) (op.extractLsb' 0 8) = op := by
  apply BitVec.eq_of_getLsbD_eq
  intro i hi
  simp only [wordOfBytes, BitVec.getLsbD_extractLsb', BitVec.getLsbD_append]
  by_cases h : i < 8
  · simp [h]
  · have h1 : i - 8 < 8 := by omega
    have h2 : 8 + (i - 8) = i := by omega
    simp [h, h1, h2]

/-- Two bytes at the head of a list are one instruction (R80); nothing else is read. -/
theorem decodeBytes_bytesOfWord (op : Word) (rest : List Byte) :
    decodeBytes (bytesOfWord op ++ rest) = .ok (decodeWord op, rest) := by
  simp [bytesOfWord, decodeBytes]

/-- The decoder and the host's numbering of bits agree on every 16-bit word. -/
theorem decodeTableWord_word (op : Word) : decodeTableWord 16 op.toNat = some (decodeWord op) := by
  have h : BitVec.ofNat 16 (op.toNat % 2 ^ 16) = op := by
    rw [Nat.mod_eq_of_lt op.isLt, BitVec.ofNat_toNat, BitVec.setWidth_eq]
  simp only [decodeTableWord, tableBytes, h, bytesOfWord, decodeBytes, wordOfBytes_bytes]

end Sys2Proof
end

