-- ==== Sys2Proof/Laws/Exec.lean ====
section
/-! SUPPORT. The instructions whose meaning branches: every way they can answer a next state. -/

namespace Sys2Proof.Machine

/-- Memory's canonical form depends on memory and the font only. -/
theorem State.memWf_of_eq {s t : State} (hf : t.font = s.font) (hm : t.mem = s.mem) (h : s.memWf) : t.memWf := by
  unfold State.memWf; rwa [hf, hm]

/-- Every way `00EE` answers a next state (R120, R232). -/
theorem execRet_cases {s t : State} (h : execRet s = .next t) :
    (s.sp = 0#8 ∧ t = s.raiseFault .stackUnderflow) ∨
    (s.sp ≠ 0#8 ∧ ∃ a, s.top = some a ∧ t = ((s.setSp (s.sp - 1#8)).setPc a).advance) := by
  unfold execRet at h
  split at h
  · cases h; exact .inl ⟨‹_›, rfl⟩
  · split at h
    · cases h; exact .inr ⟨‹_›, _, ‹_›, rfl⟩
    · cases h

/-- Every way `2nnn` answers a next state (R122, R231). -/
theorem execCall_cases {nnn : Addr} {s t : State} (h : execCall nnn s = .next t) :
    (s.sp = 16#8 ∧ t = s.raiseFault .stackOverflow) ∨
    (s.sp.toNat < 16 ∧ t = (s.push s.pc).setPc (addrWord nnn)) := by
  unfold execCall at h
  split at h
  · cases h; exact .inl ⟨‹_›, rfl⟩
  · split at h
    · cases h; exact .inr ⟨‹_›, rfl⟩
    · cases h

/-- The two ways `Fx0A` ends (R212). -/
theorem State.receiveKey_some (s : State) (x : RegIdx) (k : Key) :
    s.receiveKey x (some k) = ((s.setV x (keyByte k)).setWait false).advance := rfl

theorem State.receiveKey_none (s : State) (x : RegIdx) : s.receiveKey x none = (s.setWait true).setWreg x := rfl

/-- What a port answers, and what is left of the model's record: the next answer given, else a free value. -/
theorem Env.random8_cases (e : Env) :
    (∃ r rs, e.random = r :: rs ∧ e.random8 = (r, { e with random := rs })) ∨
    (e.random = [] ∧ e.random8 = (Config.randomByte e.drawn, { e with drawn := e.drawn + 1 })) := by
  unfold Env.random8
  split
  · exact .inl ⟨_, _, ‹_›, rfl⟩
  · exact .inr ⟨‹_›, rfl⟩

theorem Env.keyReleased_cases (e : Env) :
    (∃ k ks, e.released = k :: ks ∧ e.keyReleased = (k, { e with released := ks })) ∨
    (e.released = [] ∧ e.keyReleased = (Config.keyReleased e.drawn, { e with drawn := e.drawn + 1 })) := by
  unfold Env.keyReleased
  split
  · exact .inl ⟨_, _, ‹_›, rfl⟩
  · exact .inr ⟨‹_›, rfl⟩

theorem Env.keyHeld_cases (e : Env) (b : Byte) :
    (15 < b.toNat ∧ e.keyHeld b = (false, e)) ∨
    (b.toNat ≤ 15 ∧ ∃ a as, e.held = a :: as ∧ e.keyHeld b = (a, { e with held := as })) ∨
    (b.toNat ≤ 15 ∧ e.held = [] ∧
      e.keyHeld b = (Config.keyHeld e.drawn (b.setWidth 4), { e with drawn := e.drawn + 1 })) := by
  by_cases h : 15 < b.toNat
  · exact .inl ⟨h, Env.keyHeld_above e b h⟩
  · refine .inr ?_
    unfold Env.keyHeld Env.askHeld
    rw [if_pos (by omega)]
    split
    · exact .inl ⟨by omega, _, _, ‹_›, rfl⟩
    · exact .inr ⟨by omega, ‹_›, rfl⟩

end Sys2Proof.Machine
end

