-- ==== Sys2Proof/Laws/PerInstr.lean ====
section
/-! SUPPORT. Laws stated per instruction. Family EncodedInRow: the word of an instruction lies in its own row of the opcode
map, `encode i &&& mask = value` (R85). -/

namespace Sys2Proof.Laws.EncodedInRow

/-- The word of the instruction matches its row (R85). -/
def Statement (i : Instr) : Prop := i.row.covers (encode i) = true

/-! ### A word under the masks of R85 -/

theorem and_top (op : Word) : op &&& 0xF000#16 = packA (fieldTop op) 0#12 := by
  apply BitVec.eq_of_getLsbD_eq
  intro i hi
  simp only [packA, fieldTop, BitVec.getLsbD_and, BitVec.getLsbD_append, BitVec.getLsbD_extractLsb']
  interval_cases i <;> simp

theorem and_top_n (op : Word) : op &&& 0xF00F#16 = packXYN (fieldTop op) 0#4 0#4 (fieldN op) := by
  apply BitVec.eq_of_getLsbD_eq
  intro i hi
  simp only [packXYN, fieldTop, fieldN, BitVec.getLsbD_and, BitVec.getLsbD_append, BitVec.getLsbD_extractLsb']
  interval_cases i <;> simp

theorem and_top_kk (op : Word) : op &&& 0xF0FF#16 = packXK (fieldTop op) 0#4 (fieldKk op) := by
  apply BitVec.eq_of_getLsbD_eq
  intro i hi
  simp only [packXK, fieldTop, fieldKk, BitVec.getLsbD_and, BitVec.getLsbD_append, BitVec.getLsbD_extractLsb']
  interval_cases i <;> simp

/-! ### One lemma per constructor -/

theorem cls : Statement .cls := by
  unfold Statement; decide
theorem ret : Statement .ret := by
  unfold Statement; decide
theorem jp (nnn : Addr) : Statement (.jp nnn) := by
  simp [Statement, Instr.row, OpRow.covers, encode, and_top]; decide
theorem call (nnn : Addr) : Statement (.call nnn) := by
  simp [Statement, Instr.row, OpRow.covers, encode, and_top]; decide
theorem seByte (x : RegIdx) (kk : Byte) : Statement (.seByte x kk) := by
  simp [Statement, Instr.row, OpRow.covers, encode, and_top]; decide
theorem sneByte (x : RegIdx) (kk : Byte) : Statement (.sneByte x kk) := by
  simp [Statement, Instr.row, OpRow.covers, encode, and_top]; decide
theorem seReg (x : RegIdx) (y : RegIdx) : Statement (.seReg x y) := by
  simp [Statement, Instr.row, OpRow.covers, encode, and_top_n]; decide
theorem ldByte (x : RegIdx) (kk : Byte) : Statement (.ldByte x kk) := by
  simp [Statement, Instr.row, OpRow.covers, encode, and_top]; decide
theorem addByte (x : RegIdx) (kk : Byte) : Statement (.addByte x kk) := by
  simp [Statement, Instr.row, OpRow.covers, encode, and_top]; decide
theorem ldReg (x : RegIdx) (y : RegIdx) : Statement (.ldReg x y) := by
  simp [Statement, Instr.row, OpRow.covers, encode, and_top_n]; decide
theorem orReg (x : RegIdx) (y : RegIdx) : Statement (.orReg x y) := by
  simp [Statement, Instr.row, OpRow.covers, encode, and_top_n]; decide
theorem andReg (x : RegIdx) (y : RegIdx) : Statement (.andReg x y) := by
  simp [Statement, Instr.row, OpRow.covers, encode, and_top_n]; decide
theorem xorReg (x : RegIdx) (y : RegIdx) : Statement (.xorReg x y) := by
  simp [Statement, Instr.row, OpRow.covers, encode, and_top_n]; decide
theorem addReg (x : RegIdx) (y : RegIdx) : Statement (.addReg x y) := by
  simp [Statement, Instr.row, OpRow.covers, encode, and_top_n]; decide
theorem subReg (x : RegIdx) (y : RegIdx) : Statement (.subReg x y) := by
  simp [Statement, Instr.row, OpRow.covers, encode, and_top_n]; decide
theorem shrReg (x : RegIdx) (y : RegIdx) : Statement (.shrReg x y) := by
  simp [Statement, Instr.row, OpRow.covers, encode, and_top_n]; decide
theorem subnReg (x : RegIdx) (y : RegIdx) : Statement (.subnReg x y) := by
  simp [Statement, Instr.row, OpRow.covers, encode, and_top_n]; decide
theorem shlReg (x : RegIdx) (y : RegIdx) : Statement (.shlReg x y) := by
  simp [Statement, Instr.row, OpRow.covers, encode, and_top_n]; decide
theorem sneReg (x : RegIdx) (y : RegIdx) : Statement (.sneReg x y) := by
  simp [Statement, Instr.row, OpRow.covers, encode, and_top_n]; decide
theorem ldI (nnn : Addr) : Statement (.ldI nnn) := by
  simp [Statement, Instr.row, OpRow.covers, encode, and_top]; decide
theorem jpV0 (nnn : Addr) : Statement (.jpV0 nnn) := by
  simp [Statement, Instr.row, OpRow.covers, encode, and_top]; decide
theorem rnd (x : RegIdx) (kk : Byte) : Statement (.rnd x kk) := by
  simp [Statement, Instr.row, OpRow.covers, encode, and_top]; decide
theorem drw (x : RegIdx) (y : RegIdx) (n : Nibble) : Statement (.drw x y n) := by
  simp [Statement, Instr.row, OpRow.covers, encode, and_top]; decide
theorem skp (x : RegIdx) : Statement (.skp x) := by
  simp [Statement, Instr.row, OpRow.covers, encode, and_top_kk]; decide
theorem sknp (x : RegIdx) : Statement (.sknp x) := by
  simp [Statement, Instr.row, OpRow.covers, encode, and_top_kk]; decide
theorem ldVxDT (x : RegIdx) : Statement (.ldVxDT x) := by
  simp [Statement, Instr.row, OpRow.covers, encode, and_top_kk]; decide
theorem waitKey (x : RegIdx) : Statement (.waitKey x) := by
  simp [Statement, Instr.row, OpRow.covers, encode, and_top_kk]; decide
theorem ldDT (x : RegIdx) : Statement (.ldDT x) := by
  simp [Statement, Instr.row, OpRow.covers, encode, and_top_kk]; decide
theorem ldST (x : RegIdx) : Statement (.ldST x) := by
  simp [Statement, Instr.row, OpRow.covers, encode, and_top_kk]; decide
theorem addI (x : RegIdx) : Statement (.addI x) := by
  simp [Statement, Instr.row, OpRow.covers, encode, and_top_kk]; decide
theorem ldF (x : RegIdx) : Statement (.ldF x) := by
  simp [Statement, Instr.row, OpRow.covers, encode, and_top_kk]; decide
theorem ldB (x : RegIdx) : Statement (.ldB x) := by
  simp [Statement, Instr.row, OpRow.covers, encode, and_top_kk]; decide
theorem storeRegs (x : RegIdx) : Statement (.storeRegs x) := by
  simp [Statement, Instr.row, OpRow.covers, encode, and_top_kk]; decide
theorem loadRegs (x : RegIdx) : Statement (.loadRegs x) := by
  simp [Statement, Instr.row, OpRow.covers, encode, and_top_kk]; decide
theorem unimpl (op : Word) : Statement (.unimpl op) := by
  simp [Statement, Instr.row, OpRow.covers]

end Sys2Proof.Laws.EncodedInRow
end

