-- ==== Sys2Proof/Tests/Slice0.lean ====
section
/-! SUPPORT. Tests of one step each, with the expected results of 95_test_vectors.md; words written out from the patterns of
30_encoding.md R85; and, for every statement that has hypotheses, a witness that meets them. -/

namespace Sys2Proof.Tests

open Sys2Proof Sys2Proof.Machine

/-! ### Well-formed instructions -/

/-- `6A05` has a row of its own, so it is no unmatched word (R85, R87). -/
theorem test_wellFormed_refuses_matched_word : (Instr.unimpl 0x6A05#16).wellFormed = false := by decide

theorem test_wellFormed_takes_unmatched_word : (Instr.unimpl 0x5AB1#16).wellFormed = true := by decide

/-! ### Decoding: words written out bit by bit from R85 -/

theorem test_decode_family0_family7 :
    decodeWord 0b0000000011100000#16 = .cls ∧
    decodeWord 0b0000000011101110#16 = .ret ∧
    decodeWord 0b0001101010111100#16 = .jp 0xABC#12 ∧
    decodeWord 0b0010101010111100#16 = .call 0xABC#12 ∧
    decodeWord 0b0011000111111110#16 = .seByte 0x1#4 0xFE#8 ∧
    decodeWord 0b0100001000010000#16 = .sneByte 0x2#4 0x10#8 ∧
    decodeWord 0b0101001101000000#16 = .seReg 0x3#4 0x4#4 ∧
    decodeWord 0b0110101000000101#16 = .ldByte 0xA#4 0x05#8 ∧
    decodeWord 0b0111000111111111#16 = .addByte 0x1#4 0xFF#8 := by decide

theorem test_decode_family8 :
    decodeWord 0b1000101010110000#16 = .ldReg 0xA#4 0xB#4 ∧
    decodeWord 0b1000101010110001#16 = .orReg 0xA#4 0xB#4 ∧
    decodeWord 0b1000101010110010#16 = .andReg 0xA#4 0xB#4 ∧
    decodeWord 0b1000101010110011#16 = .xorReg 0xA#4 0xB#4 ∧
    decodeWord 0b1000101010110100#16 = .addReg 0xA#4 0xB#4 ∧
    decodeWord 0b1000101010110101#16 = .subReg 0xA#4 0xB#4 ∧
    decodeWord 0b1000101010110110#16 = .shrReg 0xA#4 0xB#4 ∧
    decodeWord 0b1000101010110111#16 = .subnReg 0xA#4 0xB#4 ∧
    decodeWord 0b1000101010111110#16 = .shlReg 0xA#4 0xB#4 := by decide

theorem test_decode_family9_familyE :
    decodeWord 0b1001001101000000#16 = .sneReg 0x3#4 0x4#4 ∧
    decodeWord 0b1010101010111100#16 = .ldI 0xABC#12 ∧
    decodeWord 0b1011101010111100#16 = .jpV0 0xABC#12 ∧
    decodeWord 0b1100001100001111#16 = .rnd 0x3#4 0x0F#8 ∧
    decodeWord 0b1101101010110101#16 = .drw 0xA#4 0xB#4 0x5#4 ∧
    decodeWord 0b1110010010011110#16 = .skp 0x4#4 ∧
    decodeWord 0b1110010010100001#16 = .sknp 0x4#4 := by decide

theorem test_decode_familyF :
    decodeWord 0b1111000100000111#16 = .ldVxDT 0x1#4 ∧
    decodeWord 0b1111001100001010#16 = .waitKey 0x3#4 ∧
    decodeWord 0b1111000000010101#16 = .ldDT 0x0#4 ∧
    decodeWord 0b1111001000011000#16 = .ldST 0x2#4 ∧
    decodeWord 0b1111001000011110#16 = .addI 0x2#4 ∧
    decodeWord 0b1111101000101001#16 = .ldF 0xA#4 ∧
    decodeWord 0b1111000000110011#16 = .ldB 0x0#4 ∧
    decodeWord 0b1111001101010101#16 = .storeRegs 0x3#4 ∧
    decodeWord 0b1111101001100101#16 = .loadRegs 0xA#4 := by decide

/-- V-F4, V-F5: words next to a pattern are unmatched, not a neighbour of it (R86, R87). -/
theorem test_decode_unmatched :
    decodeWord 0x0000#16 = .unimpl 0x0000#16 ∧ decodeWord 0x0123#16 = .unimpl 0x0123#16 ∧
    decodeWord 0x01E0#16 = .unimpl 0x01E0#16 ∧ decodeWord 0x00E1#16 = .unimpl 0x00E1#16 ∧
    decodeWord 0x5AB1#16 = .unimpl 0x5AB1#16 ∧ decodeWord 0x8128#16 = .unimpl 0x8128#16 ∧
    decodeWord 0x812F#16 = .unimpl 0x812F#16 ∧ decodeWord 0x9AB5#16 = .unimpl 0x9AB5#16 ∧
    decodeWord 0xE19F#16 = .unimpl 0xE19F#16 ∧ decodeWord 0xF1FF#16 = .unimpl 0xF1FF#16 ∧
    decodeWord 0xF000#16 = .unimpl 0xF000#16 ∧ decodeWord 0xF175#16 = .unimpl 0xF175#16 := by decide

/-- Section 7 of the vectors: `DAB5` is the bytes DA, B5 (R53, R80); one byte is no instruction. -/
theorem test_decode_bytes :
    decodeBytes [0xDA#8, 0xB5#8, 0x12#8] = .ok (.drw 0xA#4 0xB#4 0x5#4, [0x12#8]) ∧
    decodeBytes [0xDA#8] = .error .truncated ∧ decodeBytes [] = .error .truncated ∧
    decodeTableWord 16 0xDAB5 = some (.drw 0xA#4 0xB#4 0x5#4) := by
  refine ⟨rfl, rfl, rfl, by decide⟩

/-! ### One step -/

/-- The reset state with some registers set. -/
def withV (l : List (RegIdx × Byte)) : State := l.foldl (fun s p => s.setV p.1 p.2) State.reset

/-- `p` holds of the state after the next step, which is neither a fault nor a refusal. -/
def Leads (s : State) (p : State → Bool) : Bool :=
  match step s with
  | .next t => p t
  | _       => false

/-- `p` holds after one `Cycle` on the word `op` placed at `PC`. -/
def Runs (s : State) (op : Nat) (p : State → Bool) : Bool := Leads (s.withFetchWord 16 op) p

/-- The state `s` with one operation of the host listed. -/
def host (s : State) (op : HostOp) : State := s.withOps [op]

/-- The reset state with the port answers given. -/
def withPorts (random : List Byte) (held : List Bool) (released : List (Option Key)) (s : State) : State :=
  s.setEnv { s.env with random := random, held := held, released := released }

/-- The stack of V-C5, V-C6, V-C8, V-C10: `SP` and one entry. -/
def withStack (sp : Byte) (k : Nat) (a : Word) : State := (State.reset.setStack k a).setSp sp

/-! Control transfer -/

/-- V-C1. -/
theorem test_jp :
    Runs State.reset 0x1ABC (fun t => t.pc == 0x0ABC#16) = true := by decide

/-- V-C3. -/
theorem test_jp_odd :
    Runs State.reset 0x1201 (fun t => t.pc == 0x0201#16) = true := by decide

/-- V-C5. -/
theorem test_call_last_entry :
    Runs (withStack 15#8 0 0x0000#16) 0x2300 (fun t => t.stack[15] == 0x0200#16 && t.sp == 16#8 && t.pc == 0x0300#16 && t.fault == 0#2) = true := by decide

/-- V-C6. -/
theorem test_call_overflow :
    Runs (withStack 16#8 15 0x0246#16) 0x2300 (fun t => t.fault == 1#2 && t.pc == 0x0200#16 && t.sp == 16#8 && t.stack[15] == 0x0246#16) = true := by decide

/-- V-C8 (the call's address, then the advance). -/
theorem test_ret :
    Runs ((withStack 1#8 0 0x0204#16).setPc 0x0210#16) 0x00EE (fun t => t.sp == 0#8 && t.pc == 0x0206#16 && t.stack[0] == 0x0204#16) = true := by decide

/-- V-C9. -/
theorem test_ret_underflow :
    Runs State.reset 0x00EE (fun t => t.fault == 2#2 && t.pc == 0x0200#16 && t.sp == 0#8) = true := by decide

/-- V-C25 (the skip and the advance wrap). -/
theorem test_seByte_skips :
    Runs (State.reset.setPc 0xFFFE#16) 0x3100 (fun t => t.pc == 0x0002#16) = true := by decide

/-- V-C12. -/
theorem test_seByte_goes_on :
    Runs (withV [(0x1#4, 0x04#8)]) 0x3100 (fun t => t.pc == 0x0202#16) = true := by decide

/-- V-C14. -/
theorem test_sneByte_goes_on :
    Runs (withV [(0x2#4, 0x10#8)]) 0x4210 (fun t => t.pc == 0x0202#16) = true := by decide

/-- V-C15. -/
theorem test_sneByte_skips :
    Runs (withV [(0x2#4, 0x11#8)]) 0x4210 (fun t => t.pc == 0x0204#16) = true := by decide

/-- V-C16. -/
theorem test_seReg_skips :
    Runs (withV [(0x3#4, 0x07#8), (0x4#4, 0x07#8)]) 0x5340 (fun t => t.pc == 0x0204#16) = true := by decide

/-- V-C17. -/
theorem test_seReg_goes_on :
    Runs (withV [(0x3#4, 0x07#8), (0x4#4, 0x08#8)]) 0x5340 (fun t => t.pc == 0x0202#16) = true := by decide

/-- V-C19. -/
theorem test_sneReg_skips :
    Runs (withV [(0x3#4, 0x07#8), (0x4#4, 0x08#8)]) 0x9340 (fun t => t.pc == 0x0204#16) = true := by decide

/-- V-C20. -/
theorem test_sneReg_goes_on :
    Runs (withV [(0x3#4, 0x07#8), (0x4#4, 0x07#8)]) 0x9340 (fun t => t.pc == 0x0202#16) = true := by decide

/-- V-C23. -/
theorem test_jpV0 :
    Runs (withV [(0x0#4, 0xFF#8)]) 0xBFFF (fun t => t.pc == 0x10FE#16) = true := by decide

/-- V-C24. -/
theorem test_jpV0_ignores_x :
    Runs (withV [(0x0#4, 0x02#8), (0x2#4, 0x80#8)]) 0xB2FF (fun t => t.pc == 0x0301#16) = true := by decide

/-! Register load, arithmetic, logic, shift, random -/

/-- V-A1. -/
theorem test_ldByte :
    Runs State.reset 0x6A05 (fun t => t.readV 0xA#4 == 0x05#8 && t.readV 0xF#4 == 0x00#8 && t.pc == 0x0202#16) = true := by decide

/-- V-A2. -/
theorem test_ldByte_vf :
    Runs State.reset 0x6FFF (fun t => t.readV 0xF#4 == 0xFF#8) = true := by decide

/-- V-A4. -/
theorem test_addByte_wraps :
    Runs (withV [(0x1#4, 0xFF#8), (0xF#4, 0x07#8)]) 0x7101 (fun t => t.readV 0x1#4 == 0x00#8 && t.readV 0xF#4 == 0x07#8) = true := by decide

/-- V-A5. -/
theorem test_addByte_vf :
    Runs (withV [(0xF#4, 0xF8#8)]) 0x7F10 (fun t => t.readV 0xF#4 == 0x08#8) = true := by decide

/-- V-A6. -/
theorem test_ldReg :
    Runs (withV [(0x1#4, 0x01#8), (0x2#4, 0x7E#8)]) 0x8120 (fun t => t.readV 0x1#4 == 0x7E#8 && t.readV 0x2#4 == 0x7E#8) = true := by decide

/-- V-A8. -/
theorem test_orReg :
    Runs (withV [(0x1#4, 0x0F#8), (0x2#4, 0xF0#8), (0xF#4, 0x09#8)]) 0x8121 (fun t => t.readV 0x1#4 == 0xFF#8 && t.readV 0xF#4 == 0x09#8) = true := by decide

/-- V-A9. -/
theorem test_andReg :
    Runs (withV [(0x1#4, 0x3C#8), (0x2#4, 0x0F#8), (0xF#4, 0x09#8)]) 0x8122 (fun t => t.readV 0x1#4 == 0x0C#8 && t.readV 0xF#4 == 0x09#8) = true := by decide

/-- V-A10. -/
theorem test_xorReg :
    Runs (withV [(0x1#4, 0xFF#8), (0x2#4, 0x0F#8), (0xF#4, 0x09#8)]) 0x8123 (fun t => t.readV 0x1#4 == 0xF0#8 && t.readV 0xF#4 == 0x09#8) = true := by decide

/-- V-A15. -/
theorem test_addReg_carry :
    Runs (withV [(0x0#4, 0xFF#8), (0x1#4, 0x01#8)]) 0x8014 (fun t => t.readV 0x0#4 == 0x00#8 && t.readV 0x1#4 == 0x01#8 && t.readV 0xF#4 == 0x01#8) = true := by decide

/-- V-A18 (the carry survives). -/
theorem test_addReg_into_vf :
    Runs (withV [(0xF#4, 0xF0#8), (0x1#4, 0x20#8)]) 0x8F14 (fun t => t.readV 0x1#4 == 0x20#8 && t.readV 0xF#4 == 0x01#8) = true := by decide

/-- V-A24. -/
theorem test_subReg_borrow :
    Runs (withV [(0x1#4, 0x03#8), (0x2#4, 0x0A#8)]) 0x8125 (fun t => t.readV 0x1#4 == 0xF9#8 && t.readV 0x2#4 == 0x0A#8 && t.readV 0xF#4 == 0x00#8) = true := by decide

/-- V-A28 (flag 1, then 1 - 3). -/
theorem test_subReg_into_vf :
    Runs (withV [(0xF#4, 0x05#8), (0x1#4, 0x03#8)]) 0x8F15 (fun t => t.readV 0x1#4 == 0x03#8 && t.readV 0xF#4 == 0xFE#8) = true := by decide

/-- V-A41. -/
theorem test_shrReg_reads_y :
    Runs (withV [(0x1#4, 0xFF#8), (0x2#4, 0x05#8)]) 0x8126 (fun t => t.readV 0x1#4 == 0x02#8 && t.readV 0x2#4 == 0x05#8 && t.readV 0xF#4 == 0x01#8) = true := by decide

/-- V-A46. -/
theorem test_shrReg_into_vf :
    Runs (withV [(0x1#4, 0xFF#8)]) 0x8F16 (fun t => t.readV 0x1#4 == 0xFF#8 && t.readV 0xF#4 == 0x00#8) = true := by decide

/-- V-A33. -/
theorem test_subnReg :
    Runs (withV [(0x1#4, 0x03#8), (0x2#4, 0x0A#8)]) 0x8127 (fun t => t.readV 0x1#4 == 0x07#8 && t.readV 0x2#4 == 0x0A#8 && t.readV 0xF#4 == 0x01#8) = true := by decide

/-- V-A39 (flag 1, then 1 - 3). -/
theorem test_subnReg_from_vf :
    Runs (withV [(0x1#4, 0x03#8), (0xF#4, 0x0A#8)]) 0x81F7 (fun t => t.readV 0x1#4 == 0xFE#8 && t.readV 0xF#4 == 0x01#8) = true := by decide

/-- V-A48. -/
theorem test_shlReg_reads_y :
    Runs (withV [(0x2#4, 0x81#8)]) 0x812E (fun t => t.readV 0x1#4 == 0x02#8 && t.readV 0x2#4 == 0x81#8 && t.readV 0xF#4 == 0x01#8) = true := by decide

/-- V-A53. -/
theorem test_shlReg_into_vf :
    Runs (withV [(0x1#4, 0xFF#8)]) 0x8F1E (fun t => t.readV 0x1#4 == 0xFF#8 && t.readV 0xF#4 == 0x02#8) = true := by decide

/-- V-A56. -/
theorem test_rnd :
    Runs (withPorts [0xA7#8] [] [] State.reset) 0xC30F (fun t => t.readV 0x3#4 == 0x07#8 && t.env.random == []) = true := by decide

/-- V-A59. -/
theorem test_rnd_vf :
    Runs (withPorts [0xFF#8] [] [] State.reset) 0xCF81 (fun t => t.readV 0xF#4 == 0x81#8) = true := by decide

/-! Index register and memory transfer -/

/-- V-M1. -/
theorem test_ldI :
    Runs (State.reset.setI 0xFFFF#16) 0xA300 (fun t => t.i == 0x0300#16 && t.pc == 0x0202#16) = true := by decide

/-- V-M3. -/
theorem test_addI_passes_12_bits :
    Runs (withV [(0x2#4, 0x01#8), (0xF#4, 0x07#8)] |>.setI 0x0FFF#16) 0xF21E (fun t => t.i == 0x1000#16 && t.readV 0xF#4 == 0x07#8) = true := by decide

/-- V-M4. -/
theorem test_addI_wraps :
    Runs (withV [(0x2#4, 0x01#8), (0xF#4, 0x07#8)] |>.setI 0xFFFF#16) 0xF21E (fun t => t.i == 0x0000#16 && t.readV 0xF#4 == 0x07#8) = true := by decide

/-- V-M6. -/
theorem test_ldF :
    Runs (withV [(0xA#4, 0x05#8)]) 0xFA29 (fun t => t.i == 0x0069#16) = true := by decide

/-- V-M7. -/
theorem test_ldF_above_15 :
    Runs (withV [(0xA#4, 0xFF#8)]) 0xFA29 (fun t => t.i == 0x054B#16) = true := by decide

/-- V-M8. -/
theorem test_ldB :
    Runs (withV [(0x0#4, 0xEA#8)] |>.setI 0x0300#16) 0xF033 (fun t => t.memRead 0x300 == 0x02#8 && t.memRead 0x301 == 0x03#8 && t.memRead 0x302 == 0x04#8 && t.i == 0x0300#16) = true := by decide

/-- V-M10. -/
theorem test_ldB_address_wraps :
    Runs (withV [(0x0#4, 0xC7#8)] |>.setI 0x0FFF#16) 0xF033 (fun t => t.memRead 0xFFF == 0x01#8 && t.memRead 0x000 == 0x09#8 && t.memRead 0x001 == 0x09#8) = true := by decide

/-- V-M11. -/
theorem test_storeRegs :
    Runs (withV [(0x0#4, 0x11#8), (0x1#4, 0x22#8), (0x2#4, 0x33#8), (0x3#4, 0x44#8), (0x4#4, 0x55#8)] |>.setI 0x0400#16) 0xF355 (fun t => t.memRead 0x400 == 0x11#8 && t.memRead 0x403 == 0x44#8 && t.memRead 0x404 == 0x00#8 && t.i == 0x0404#16) = true := by decide

/-- V-M16. -/
theorem test_storeRegs_wraps :
    Runs (withV [(0x0#4, 0xAA#8), (0x1#4, 0xBB#8)] |>.setI 0xFFFF#16) 0xF155 (fun t => t.memRead 0xFFF == 0xAA#8 && t.memRead 0x000 == 0xBB#8 && t.i == 0x0001#16) = true := by decide

/-- V-M18. -/
theorem test_loadRegs :
    Runs (((withV [(0x3#4, 0x77#8)]).memWriteList 0x300 [0x02#8, 0x03#8, 0x04#8, 0x05#8]).setI 0x0300#16) 0xF265 (fun t => t.readV 0x0#4 == 0x02#8 && t.readV 0x1#4 == 0x03#8 && t.readV 0x2#4 == 0x04#8 && t.readV 0x3#4 == 0x77#8 && t.i == 0x0303#16) = true := by decide

/-- V-M13 (the default font). -/
theorem test_loadRegs_vf :
    Runs (State.reset.setI 0x0050#16) 0xFF65 (fun t => t.readV 0x0#4 == 0xF0#8 && t.readV 0xF#4 == 0xF0#8 && t.readV 0xD#4 == 0x80#8 && t.i == 0x0060#16) = true := by decide

/-! Display -/

/-- V-D11. -/
theorem test_cls :
    Runs ((withV [(0xF#4, 0x01#8)]).setPixel 3 3 true) 0x00E0 (fun t => !t.getPixel 3 3 && t.readV 0xF#4 == 0x01#8 && t.pc == 0x0202#16) = true := by decide

/-- V-D4. -/
theorem test_drw_clips_columns :
    Runs (((withV [(0x0#4, 0x3C#8)]).memWrite 0x300 0xFF#8).setI 0x0300#16) 0xD011 (fun t => !t.getPixel 0 59 && t.getPixel 0 60 && t.getPixel 0 63 && !t.getPixel 0 0 && t.readV 0xF#4 == 0x00#8) = true := by decide

/-- V-D9. -/
theorem test_drw_collides :
    Runs (((State.reset.memWrite 0x300 0xC0#8).setI 0x0300#16).setPixel 0 1 true) 0xD011 (fun t => t.getPixel 0 0 && !t.getPixel 0 1 && t.readV 0xF#4 == 0x01#8 && t.i == 0x0300#16) = true := by decide

/-! Keypad and timers -/

/-- V-K1. -/
theorem test_skp_held :
    Runs (withPorts [] [true] [] (withV [(0x4#4, 0x07#8)])) 0xE49E (fun t => t.pc == 0x0204#16 && t.env.held == []) = true := by decide

/-- V-K4 (the device is not asked). -/
theorem test_skp_above_15 :
    Runs (withPorts [] [true] [] (withV [(0x4#4, 0x10#8)])) 0xE49E (fun t => t.pc == 0x0202#16 && t.env.held == [true]) = true := by decide

/-- V-K5. -/
theorem test_sknp_not_held :
    Runs (withPorts [] [false] [] (withV [(0x4#4, 0x07#8)])) 0xE4A1 (fun t => t.pc == 0x0204#16) = true := by decide

/-- V-K6. -/
theorem test_sknp_held :
    Runs (withPorts [] [true] [] (withV [(0x4#4, 0x07#8)])) 0xE4A1 (fun t => t.pc == 0x0202#16) = true := by decide

/-- V-K8. -/
theorem test_waitKey_blocks :
    Runs (withPorts [] [] [none] State.reset) 0xF00A (fun t => t.pc == 0x0200#16 && t.wait && t.wreg == 0x0#4 && t.readV 0x0#4 == 0x00#8) = true := by decide

/-- V-K10. -/
theorem test_waitKey_released :
    Runs (withPorts [] [] [some 0x0#4] (withV [(0x3#4, 0xFF#8)])) 0xF30A (fun t => t.readV 0x3#4 == 0x00#8 && !t.wait && t.pc == 0x0202#16) = true := by decide

/-- V-K12. -/
theorem test_ldVxDT :
    Runs (State.reset.setDt 0x3C#8) 0xF107 (fun t => t.readV 0x1#4 == 0x3C#8 && t.dt == 0x3C#8) = true := by decide

/-- V-K13. -/
theorem test_ldDT :
    Runs (withV [(0x0#4, 0x07#8)]) 0xF015 (fun t => t.dt == 0x07#8) = true := by decide

/-- V-K14. -/
theorem test_ldST :
    Runs (withV [(0x2#4, 0x1E#8)]) 0xF218 (fun t => t.st == 0x1E#8 && t.dt == 0x00#8) = true := by decide

/-! Fetch, the unmatched word, the host's operations -/

/-- V-F4. -/
theorem test_unimpl :
    Runs (withV [(0x1#4, 0x11#8)]) 0x0000 (fun t => t.pc == 0x0202#16 && t.outputs == [.report 0x0200#16 0x0000#16] && t.readV 0x1#4 == 0x11#8) = true := by decide

/-- V-F5. -/
theorem test_unimpl_next_to_row :
    Runs State.reset 0x812F (fun t => t.pc == 0x0202#16 && t.outputs == [.report 0x0200#16 0x812F#16]) = true := by decide

/-- V-F1. -/
theorem test_fetch_wraps :
    Leads (host (((State.reset.memWrite 0xFFF 0x6A#8).memWrite 0x000 0x42#8).setPc 0x0FFF#16) .cycle) (fun t => t.readV 0xA#4 == 0x42#8 && t.pc == 0x1001#16) = true := by decide

/-- V-F2. -/
theorem test_fetch_above_memory :
    Leads (host ((State.reset.memWriteList 0x300 [0x6B#8, 0x17#8]).setPc 0x1300#16) .cycle) (fun t => t.readV 0xB#4 == 0x17#8 && t.pc == 0x1302#16) = true := by decide

/-- V-K15. -/
theorem test_tick :
    Leads (host ((State.reset.setDt 2#8).setSt 1#8) .tick) (fun t => t.dt == 1#8 && t.st == 0#8 && t.pc == 0x0200#16) = true := by decide

/-- V-K18. -/
theorem test_tick_faulted :
    Leads (host ((State.reset.setDt 5#8).setFault 1#2) .tick) (fun t => t.dt == 5#8) = true := by decide

/-- V-D12 (in range and out of it). -/
theorem test_getPixel :
    Leads (host (State.reset.setPixel 0 0 true) (.getPixel 0 0)) (fun t => t.outputs == [.pixel 0 0 true]) = true := by decide

/-- V-D12. -/
theorem test_getPixel_outside :
    Leads (host (State.reset.setPixel 0 0 true) (.getPixel 32 0)) (fun t => t.outputs == [.pixel 32 0 false]) = true := by decide

/-- P1 (the bytes 60 0A 61 05 80 14 from 0x200 on). -/
theorem test_loadRom :
    Leads (host State.reset (.loadRom [0x60#8, 0x0A#8, 0x61#8, 0x05#8, 0x80#8, 0x14#8])) (fun t => t.memRead 0x200 == 0x60#8 && t.memRead 0x205 == 0x14#8 && t.pc == 0x0200#16) = true := by decide

/-- R270, R36. -/
theorem test_reset_after_fault :
    Leads (host (((withStack 16#8 0 0x0204#16).setFault 1#2).setPc 0x0300#16) .reset) (fun t => t.fault == 0#2 && t.sp == 0#8 && t.pc == 0x0200#16 && t.stack[0] == 0x0000#16) = true := by decide

/-! ### Witnesses: concrete states and operands that meet the hypotheses of each statement that has any

The name of a witness says which statement it is for; a statement with several clauses has one for each, at the boundary
of its range. -/

theorem witness_DecodeOfEncodeIsIdentity :
    (Instr.storeRegs 0xF#4).wellFormed = true ∧ (Instr.unimpl 0xF0FF#16).wellFormed = true := by decide

theorem witness_DecodedInstructionIsOfTheOnlyMatchingRow :
    (∃ r ∈ opTable, r.covers 0x00E0#16 = true) ∧ (∃ r ∈ opTable, r.covers 0xFF65#16 = true) ∧
    (∀ r ∈ opTable, r.covers 0xFF66#16 = false) := by decide

theorem witness_StepRunsDecodedInstruction :
    (host State.reset .cycle).fault = 0#2 ∧ decodeWord (host State.reset .cycle).fetch = .unimpl 0x0000#16 ∧
    (host State.reset .cycle).env.ops = [.cycle] ∧ State.reset.fault = 0#2 ∧ State.reset.env.ops = [] := by decide

/-- A core frozen by StackOverflow. -/
def frozen : State := (withStack 16#8 15 0x0200#16).setFault 1#2

theorem witness_FaultedCoreIsFrozenUntilReset :
    frozen.fault ≠ 0#2 ∧ (host frozen .cycle).fault ≠ 0#2 ∧ (host frozen .cycle).env.ops = [.cycle] ∧
    (host frozen .tick).env.ops = [.tick] ∧ (host frozen (.getPixel 31 63)).env.ops = [.getPixel 31 63] ∧
    (host frozen .reset).env.ops = [.reset] ∧ (∃ t, step (host frozen .reset) = .next t) ∧
    (∀ ops, (host frozen .tick).env.ops ≠ .reset :: ops) ∧ (∃ t, step (host frozen .tick) = .next t) := by
  refine ⟨by decide, by decide, rfl, rfl, rfl, rfl, ⟨_, rfl⟩, fun ops h => ?_, ⟨_, rfl⟩⟩
  have h' : ([.tick] : List HostOp) = .reset :: ops := h
  cases h'

theorem witness_FaultEntryChangesOnlyTheLatch :
    (∃ t, exec (.call 0x300#12) (withStack 16#8 15 0x0200#16) = .next t ∧
      t.fault ≠ (withStack 16#8 15 0x0200#16).fault) ∧
    (∃ t, exec .ret State.reset = .next t ∧ t.fault ≠ State.reset.fault) := by
  exact ⟨⟨_, rfl, by decide⟩, ⟨_, rfl, by decide⟩⟩

theorem witness_ResetLeavesInitialState :
    (host frozen .reset).env.ops = .reset :: [] ∧ (host (State.reset.setWait true) .reset).env.ops = .reset :: [] :=
  ⟨rfl, rfl⟩

/-- An address of the font and the two at its edges (the clauses on memory of `ResetLeavesInitialState` and
`MachineStartsAtReset`). -/
theorem witness_font_edges :
    (0 < 80 ∧ 79 < 80) ∧ ¬ (0x050 ≤ 0x04F ∧ 0x04F < 0x0A0) ∧ ¬ (0x050 ≤ 0x0A0 ∧ 0x0A0 < 0x0A0) ∧ 0xFFF < 4096 := by
  decide

theorem witness_TickCountsTimersDown :
    (host State.reset .tick).env.ops = .tick :: [] ∧ (host State.reset .tick).fault = 0#2 ∧
    (host frozen .tick).env.ops = .tick :: [] ∧ (host frozen .tick).fault ≠ 0#2 := by decide

/-- The boundary of `LoadRom`: 3584 bytes fit, 3585 do not. -/
theorem witness_LoadRomCopiesTheProgramOnce :
    (host State.reset (.loadRom [])).env.ops = .loadRom [] :: [] ∧ (host State.reset (.loadRom [])).loadable = true ∧
    (List.replicate 3584 0#8).length ≤ 3584 ∧ ([] : List Byte).length ≤ 3584 ∧
    (host (State.reset.setLoadable false) (.loadRom [])).loadable = false := by
  exact ⟨rfl, rfl, List.length_replicate.le, Nat.zero_le _, rfl⟩

theorem witness_TooLongRomIsRefused :
    (host State.reset (.loadRom (List.replicate 3585 0#8))).env.ops = .loadRom (List.replicate 3585 0#8) :: [] ∧
    (host State.reset (.loadRom (List.replicate 3585 0#8))).loadable = true ∧
    3584 < (List.replicate 3585 0#8).length := by
  exact ⟨rfl, rfl, List.length_replicate ▸ Nat.lt_succ_self 3584⟩

theorem witness_GetPixelAnswersAndChangesNothing :
    (host State.reset (.getPixel 31 63)).env.ops = .getPixel 31 63 :: [] ∧ (31 < 32 ∧ 63 < 64) ∧
    (host State.reset (.getPixel 32 63)).env.ops = .getPixel 32 63 :: [] ∧ ¬ (32 < 32 ∧ 63 < 64) ∧
    ¬ (31 < 32 ∧ 64 < 64) := by decide

theorem witness_CallPushesItsOwnAddress :
    (withStack 15#8 0 0x0000#16).sp.toNat < 16 ∧ (withStack 16#8 0 0x0000#16).sp.toNat = 16 := by decide

theorem witness_ReturnGoesPastTheCall :
    (0 < (withStack 1#8 0 0x0204#16).sp.toNat ∧ (withStack 1#8 0 0x0204#16).sp.toNat ≤ 16) ∧
    (0 < (withStack 16#8 0 0x0204#16).sp.toNat ∧ (withStack 16#8 0 0x0204#16).sp.toNat ≤ 16) ∧
    (withStack 0#8 0 0x0204#16).sp.toNat = 0 := by decide

theorem witness_StackPointerAbove16Stops :
    16 < (withStack 17#8 0 0x0000#16).sp.toNat ∧ 16 < (withStack 255#8 0 0x0000#16).sp.toNat := by decide

theorem witness_ReturnUndoesCall :
    (withStack 15#8 0 0x0000#16).sp.toNat < 16 ∧
    ∃ t, exec (.call 0x300#12) (withStack 15#8 0 0x0000#16) = .next t ∧ (t.setV 0x3#4 9#8).stack = t.stack ∧
      (t.setV 0x3#4 9#8).sp = t.sp :=
  ⟨by decide, _, rfl, rfl, rfl⟩

/-- The five cases of `x` and `y` being VF, for both subtractions and both shifts; `f` is a number, so its equation is met
by the conditional itself. -/
theorem witness_SubtractSetsNotBorrowFirst :
    (0x1#4 ≠ vf ∧ 0x2#4 ≠ vf) ∧ (vf = vf ∧ 0x2#4 ≠ vf) ∧ (0x1#4 ≠ vf ∧ vf = vf) ∧
    (∃ f : Nat, f = if ((withV [(0x1#4, 3#8)]).readV 0x1#4).toNat > (State.reset.readV 0x2#4).toNat then 0 else 1) ∧
    (∃ f : Nat, f = if (State.reset.readV 0x1#4).toNat > (State.reset.readV 0x2#4).toNat then 0 else 1) :=
  ⟨by decide, by decide, by decide, ⟨_, rfl⟩, ⟨_, rfl⟩⟩

theorem witness_AddSetsCarry_and_shifts : 0xE#4 ≠ vf ∧ 0xF#4 = vf := by decide

theorem witness_RandomIsOneDrawAndByte :
    (withPorts [0xA7#8] [] [] State.reset).env.random = 0xA7#8 :: [] ∧ State.reset.env.random = [] := ⟨rfl, rfl⟩

/-- An address next to the three bytes stored at `I = 0xFFF`: 0xFFF, 0x000 and 0x001 are stored to, 0x002 is not. -/
theorem witness_DecimalDigitsAreStored :
    ∀ k < 3, 0x002 % 4096 ≠ (State.reset.setI 0x0FFF#16).dataAddr k % 4096 := by decide

/-- `x = 15`, `I = 0xFFF`: the last byte stored is at 0x00E, and 0x00F is not stored to. -/
theorem witness_RegistersAreStoredUpToX :
    (0xF#4).toNat ≤ (0xF#4).toNat ∧
    ∀ k ≤ (0xF#4).toNat, 0x00F % 4096 ≠ (State.reset.setI 0x0FFF#16).dataAddr k % 4096 := by decide

theorem witness_RegistersAreLoadedUpToX :
    Part.memory ≠ .index ∧ (0x2#4).toNat ≤ (0x2#4).toNat ∧ ¬ (0x3#4).toNat ≤ (0x2#4).toNat := by decide

theorem witness_StoreThenLoadRestoresRegisters :
    ∃ t, exec (.storeRegs 0x3#4) State.reset = .next t ∧
      ((t.setI 0x0000#16).setV 0x0#4 7#8).i = State.reset.i ∧
      ∀ a, ((t.setI 0x0000#16).setV 0x0#4 7#8).memRead a = t.memRead a :=
  ⟨_, rfl, rfl, fun _ => rfl⟩

theorem witness_StoreIsSeenByTheNextFetch :
    1 ≤ (0x1#4).toNat ∧ (State.reset.setI 0x0202#16).i.toNat % 4096 = ((State.reset.setI 0x0202#16).pc.toNat + 2) % 4096 ∧
    ∃ t, exec (.storeRegs 0x1#4) (State.reset.setI 0x0202#16) = .next t :=
  ⟨by decide, by decide, _, rfl⟩

/-- V-D9's state: one sprite byte C0 at 0x300, pixel (0,1) on. -/
def sprite : State := ((State.reset.memWrite 0x300 0xC0#8).setI 0x0300#16).setPixel 0 1 true

/-- A covered pixel, an uncovered one, a collision; and no collision with `n = 0`. -/
theorem witness_DrawXorsTheSprite :
    sprite.spriteCovers 0 0 1 0 1 ∧ ¬ sprite.spriteCovers 0 0 1 0 2 ∧
    (∃ r c, sprite.spriteCovers 0 0 1 r c ∧ sprite.getPixel r c = true) ∧
    ¬ ∃ r c, sprite.spriteCovers 0 0 0 r c ∧ sprite.getPixel r c = true := by
  refine ⟨by decide, by decide, ⟨0, 1, by decide, by decide⟩, ?_⟩
  rintro ⟨r, c, ⟨h1, h2, -⟩, -⟩
  omega

/-- Drawn twice at the same place; and with `x = F`: VF is 64 before and 0 after the first draw, the same base column. -/
theorem witness_DrawingTwiceRestoresTheDisplay :
    (∃ t w, exec (.drw 0x0#4 0x1#4 0x1#4) sprite = .next t ∧
      ((t.setPc sprite.pc).readV 0x0#4).toNat % 64 = (sprite.readV 0x0#4).toNat % 64 ∧
      ((t.setPc sprite.pc).readV 0x1#4).toNat % 32 = (sprite.readV 0x1#4).toNat % 32 ∧
      exec (.drw 0x0#4 0x1#4 0x1#4) (t.setPc sprite.pc) = .next w) ∧
    (∃ t w, exec (.drw vf 0x1#4 0x0#4) (sprite.setV vf 64#8) = .next t ∧
      ((t.setPc sprite.pc).readV vf).toNat % 64 = ((sprite.setV vf 64#8).readV vf).toNat % 64 ∧
      ((t.setPc sprite.pc).readV 0x1#4).toNat % 32 = ((sprite.setV vf 64#8).readV 0x1#4).toNat % 32 ∧
      exec (.drw vf 0x1#4 0x0#4) (t.setPc sprite.pc) = .next w) :=
  ⟨⟨_, _, rfl, by decide, by decide, rfl⟩, ⟨_, _, rfl, by decide, by decide, rfl⟩⟩

theorem witness_FramebufferReachesOnlyVfThroughDraw :
    (∃ t, exec (.drw 0x0#4 0x1#4 0x1#4) sprite = .next t) ∧
    (∃ t, exec .cls sprite = .next t) ∧ (∀ x y n, Instr.cls ≠ .drw x y n) ∧ (0x0#4 ≠ vf) :=
  ⟨⟨_, rfl⟩, ⟨_, rfl⟩, nofun, by decide⟩

/-- Key numbers 15 (asked) and 16 (not asked), with an answer given and with none. -/
theorem witness_KeySkipsFollowTheAnswer :
    ((withPorts [] [true] [] (withV [(0x4#4, 15#8)])).readV 0x4#4).toNat ≤ 15 ∧
    (withPorts [] [true] [] (withV [(0x4#4, 15#8)])).env.held = true :: [] ∧
    (withV [(0x4#4, 15#8)]).env.held = [] ∧ 15 < ((withV [(0x4#4, 16#8)]).readV 0x4#4).toNat ∧
    (∃ b, b = Config.keyHeld 0 15#4) := ⟨by decide, rfl, rfl, by decide, _, rfl⟩

theorem witness_WaitKeyBlocksUntilARelease :
    (withPorts [] [] [none] State.reset).env.released = none :: [] ∧
    (withPorts [] [] [some 0xF#4] State.reset).env.released = some 0xF#4 :: [] ∧
    State.reset.env.released = [] ∧ (∃ answer, answer = Config.keyReleased State.reset.env.drawn) :=
  ⟨rfl, rfl, rfl, _, rfl⟩

/-- `6105` is none of the instructions that `OnlyStoresChangeMemory`, `OnlyClearAndDrawChangeTheDisplay`,
`OnlyCallAndReturnUseTheStack`, `NoInstructionCountsTheTimers`, `OnlyWaitKeyChangesTheWaitState` and
`OnlyUnmatchedWordsAreReported` except. -/
theorem witness_only_statements :
    (∃ t, exec (.ldByte 0x1#4 5#8) State.reset = .next t) ∧
    (∀ x, Instr.ldByte 0x1#4 5#8 ≠ .ldB x) ∧ (∀ x, Instr.ldByte 0x1#4 5#8 ≠ .storeRegs x) ∧
    Instr.ldByte 0x1#4 5#8 ≠ .cls ∧ (∀ x y n, Instr.ldByte 0x1#4 5#8 ≠ .drw x y n) ∧
    (∀ nnn, Instr.ldByte 0x1#4 5#8 ≠ .call nnn) ∧ Instr.ldByte 0x1#4 5#8 ≠ .ret ∧
    (∀ x, Instr.ldByte 0x1#4 5#8 ≠ .ldDT x) ∧ (∀ x, Instr.ldByte 0x1#4 5#8 ≠ .ldST x) ∧
    (∀ x, Instr.ldByte 0x1#4 5#8 ≠ .waitKey x) ∧ (∀ op, Instr.ldByte 0x1#4 5#8 ≠ .unimpl op) :=
  ⟨⟨_, rfl⟩, nofun, nofun, nofun, nofun, nofun, nofun, nofun, nofun, nofun, nofun⟩

/-- `6105` is none of the instructions that `OnlyFiveInstructionsWriteI`, `PortsAreAskedAtMostOnce` and
`OrdinaryInstructionsAdvanceByTwo` except. -/
theorem witness_more_only_statements :
    (∀ nnn, Instr.ldByte 0x1#4 5#8 ≠ .ldI nnn) ∧ (∀ x, Instr.ldByte 0x1#4 5#8 ≠ .addI x) ∧
    (∀ x, Instr.ldByte 0x1#4 5#8 ≠ .ldF x) ∧ (∀ x, Instr.ldByte 0x1#4 5#8 ≠ .loadRegs x) ∧
    (∀ x kk, Instr.ldByte 0x1#4 5#8 ≠ .rnd x kk) ∧ (∀ x, Instr.ldByte 0x1#4 5#8 ≠ .skp x) ∧
    (∀ x, Instr.ldByte 0x1#4 5#8 ≠ .sknp x) ∧ (∀ nnn, Instr.ldByte 0x1#4 5#8 ≠ .jp nnn) ∧
    (∀ nnn, Instr.ldByte 0x1#4 5#8 ≠ .jpV0 nnn) ∧ (∀ x kk, Instr.ldByte 0x1#4 5#8 ≠ .seByte x kk) ∧
    (∀ x kk, Instr.ldByte 0x1#4 5#8 ≠ .sneByte x kk) ∧ (∀ x y, Instr.ldByte 0x1#4 5#8 ≠ .seReg x y) ∧
    (∀ x y, Instr.ldByte 0x1#4 5#8 ≠ .sneReg x y) :=
  ⟨nofun, nofun, nofun, nofun, nofun, nofun, nofun, nofun, nofun, nofun, nofun, nofun, nofun⟩

/-- `6E05`, next to VF, is none of the instructions that `OnlyFlagProducersWriteVf` excepts. -/
theorem witness_OnlyFlagProducersWriteVf :
    (∃ t, exec (.ldByte 0xE#4 5#8) State.reset = .next t) ∧
    (∀ x y, Instr.ldByte 0xE#4 5#8 ≠ .addReg x y) ∧ (∀ x y, Instr.ldByte 0xE#4 5#8 ≠ .subReg x y) ∧
    (∀ x y, Instr.ldByte 0xE#4 5#8 ≠ .shrReg x y) ∧ (∀ x y, Instr.ldByte 0xE#4 5#8 ≠ .subnReg x y) ∧
    (∀ x y, Instr.ldByte 0xE#4 5#8 ≠ .shlReg x y) ∧ (∀ x y n, Instr.ldByte 0xE#4 5#8 ≠ .drw x y n) ∧
    (∀ kk, Instr.ldByte 0xE#4 5#8 ≠ .ldByte vf kk) ∧ (∀ kk, Instr.ldByte 0xE#4 5#8 ≠ .addByte vf kk) ∧
    (∀ kk, Instr.ldByte 0xE#4 5#8 ≠ .rnd vf kk) ∧ (∀ y, Instr.ldByte 0xE#4 5#8 ≠ .ldReg vf y) ∧
    (∀ y, Instr.ldByte 0xE#4 5#8 ≠ .orReg vf y) ∧ (∀ y, Instr.ldByte 0xE#4 5#8 ≠ .andReg vf y) ∧
    (∀ y, Instr.ldByte 0xE#4 5#8 ≠ .xorReg vf y) ∧ Instr.ldByte 0xE#4 5#8 ≠ .ldVxDT vf ∧
    Instr.ldByte 0xE#4 5#8 ≠ .waitKey vf ∧ Instr.ldByte 0xE#4 5#8 ≠ .loadRegs vf := by
  refine ⟨⟨_, rfl⟩, nofun, nofun, nofun, nofun, nofun, nofun, fun kk h => ?_, nofun, nofun, nofun, nofun, nofun, nofun,
    nofun, nofun, nofun⟩
  have : (0xE#4 : RegIdx) = vf := by injection h
  exact absurd this (by decide)

theorem witness_FlagsAreZeroOrOne :
    (∃ t, exec (.addReg vf vf) State.reset = .next t) ∧ (∃ t, exec (.drw vf vf 0x0#4) State.reset = .next t) ∧
    (∃ t, exec (.subReg 0xE#4 vf) State.reset = .next t) ∧ 0xE#4 ≠ vf := ⟨⟨_, rfl⟩, ⟨_, rfl⟩, ⟨_, rfl⟩, by decide⟩

theorem witness_EveryInstructionCompletes :
    State.reset.sp.toNat ≤ 16 ∧ (withStack 16#8 0 0x0000#16).sp.toNat ≤ 16 := by decide

/-- A core blocked on `F30A` at 0x200: it meets the invariant with every clause of it in force. -/
def blocked : State :=
  (((State.reset.memWriteList 0x200 [0xF3#8, 0x0A#8]).setWait true).setWreg 0x3#4).setLoadable false

theorem witness_StepKeepsTheInvariant : blocked.Inv ∧ blocked.wait = true ∧ ∃ t, step (host blocked .tick) = .next t :=
  ⟨⟨by decide, by decide, by decide, by decide⟩, rfl, _, rfl⟩

theorem witness_OnlyLoadRomCanBeRefused : blocked.Inv ∧ ∀ bytes ops, blocked.env.ops ≠ .loadRom bytes :: ops :=
  ⟨witness_StepKeepsTheInvariant.1, fun _ _ h => by cases h⟩

/-- The word `1200` at 0x200 parks the core there. -/
theorem witness_ParkedCoreStaysParked :
    (host (State.reset.memWriteList 0x200 [0x12#8, 0x00#8]) .cycle).ParkedAt 0x200#12 ∧
    (host (State.reset.memWriteList 0x200 [0x12#8, 0x00#8]) .cycle).env.ops = .cycle :: [] :=
  ⟨⟨by decide, by decide, by decide, by decide⟩, rfl⟩

end Sys2Proof.Tests
end

section
/-! PROOFS. The statements on control flow (41_control.md). A jump or a skip only moves `PC`: each instruction is first said
to be one `setPc`, and the frame of `setPc` is proved once. -/

namespace Sys2Proof.Machine

/-- Writing `PC` leaves every register and every other part as it was. -/
theorem State.changesOnly_setPc (s : State) (a : Word) : ChangesOnly s (s.setPc a) [] [] := by
  refine ⟨fun r _ => State.setPc_readV s a r, fun p _ => ?_⟩
  cases p <;> simp [Part.same]

/-! ### The register skips (R123 to R126) -/

/-- On equality the skip passes over the next word (R123). -/
theorem exec_seByte (x : RegIdx) (kk : Byte) (s : State) :
    exec (.seByte x kk) s = .next (s.setPc (if s.readV x = kk then s.pc + 4#16 else s.pc + 2#16)) := by
  simp [exec, execSeByte, State.skipIf_advance_eq]

/-- The two ends of R123 change places (R124). -/
theorem exec_sneByte (x : RegIdx) (kk : Byte) (s : State) :
    exec (.sneByte x kk) s = .next (s.setPc (if s.readV x = kk then s.pc + 2#16 else s.pc + 4#16)) := by
  simp [exec, execSneByte, State.skipIf_advance_eq]

/-- As R123, with a second register in the place of the byte (R125). -/
theorem exec_seReg (x y : RegIdx) (s : State) :
    exec (.seReg x y) s = .next (s.setPc (if s.readV x = s.readV y then s.pc + 4#16 else s.pc + 2#16)) := by
  simp [exec, execSeReg, State.skipIf_advance_eq]

/-- The two ends of R125 change places (R126). -/
theorem exec_sneReg (x y : RegIdx) (s : State) :
    exec (.sneReg x y) s = .next (s.setPc (if s.readV x = s.readV y then s.pc + 2#16 else s.pc + 4#16)) := by
  simp [exec, execSneReg, State.skipIf_advance_eq]

/-- Settles O23: each skip is a single write of `PC`, whose frame is `State.changesOnly_setPc`. -/
theorem registerSkips : Obligations.RegisterSkips := by
  intro x y kk s
  refine ⟨rfl, rfl, rfl, rfl, ?seByte, ?sneByte, ?seReg, ?sneReg⟩
  case seByte => exact ⟨_, exec_seByte x kk s, s.changesOnly_setPc _, rfl⟩
  case sneByte => exact ⟨_, exec_sneByte x kk s, s.changesOnly_setPc _, rfl⟩
  case seReg => exact ⟨_, exec_seReg x y s, s.changesOnly_setPc _, rfl⟩
  case sneReg => exact ⟨_, exec_sneReg x y s, s.changesOnly_setPc _, rfl⟩

end Sys2Proof.Machine
end

section
/-! PROOFS. The statements on loads and additions (42_alu.md R140 to R142, R146). Every instruction of the family ends in
`finishV`: what `finishV` writes and leaves unchanged is said once, and frames are composed where an instruction writes two
registers. -/

namespace Sys2Proof.Machine

/-! ### Frames in sequence -/

/-- Agreement in a part is transitive. -/
theorem Part.same_trans {p : Part} {s t u : State} (hst : p.same s t) (htu : p.same t u) : p.same s u := by
  cases p
  case memory => exact fun a => (htu a).trans (hst a)
  case display => exact fun row col => (htu row col).trans (hst row col)
  all_goals exact Eq.trans htu hst

/-- What two changes in sequence may touch is what either of them may touch. -/
theorem ChangesOnly.trans {s t u : State} {regs regs' : List RegIdx} {parts parts' : List Part}
    (hst : ChangesOnly s t regs parts) (htu : ChangesOnly t u regs' parts') :
    ChangesOnly s u (regs ++ regs') (parts ++ parts') := by
  obtain ⟨hstV, hstP⟩ := hst
  obtain ⟨htuV, htuP⟩ := htu
  refine ⟨fun r hr => ?_, fun p hp => ?_⟩
  · obtain ⟨hr, hr'⟩ := not_or.mp (List.mem_append.not.mp hr)
    exact (htuV r hr').trans (hstV r hr)
  · obtain ⟨hp, hp'⟩ := not_or.mp (List.mem_append.not.mp hp)
    exact Part.same_trans (hstP p hp) (htuP p hp')

/-- Writing `V[x]` leaves every other register and every part as it was. -/
theorem State.changesOnly_setV (s : State) (x : RegIdx) (b : Byte) : ChangesOnly s (s.setV x b) [x] [] := by
  refine ⟨fun r hr => ?_, fun p _ => ?_⟩
  · rw [State.readV_setV, if_neg (List.ne_of_not_mem_cons hr)]
  · cases p <;> simp [Part.same]

/-! ### The end of every instruction of the family -/

/-- `finishV` advances `PC` past the instruction (R103). -/
@[simp] theorem State.finishV_pc (s : State) (x : RegIdx) (b : Byte) : (s.finishV x b).pc = s.pc + 2#16 := rfl

/-- `finishV` writes `V[x]` alone among the registers. -/
@[simp] theorem State.readV_finishV (s : State) (x r : RegIdx) (b : Byte) :
    (s.finishV x b).readV r = if r = x then b else s.readV r := by
  rw [State.finishV_eq, State.advance_readV, State.readV_setV]

/-- Register `x` reads as the byte that `finishV` wrote to it. -/
theorem State.readV_finishV_self (s : State) (x : RegIdx) (b : Byte) : (s.finishV x b).readV x = b := by
  rw [State.readV_finishV, if_pos rfl]

/-- The frame of `finishV`: that of the register write followed by that of the advance. -/
theorem State.changesOnly_finishV (s : State) (x : RegIdx) (b : Byte) : ChangesOnly s (s.finishV x b) [x] [] :=
  (s.changesOnly_setV x b).trans (State.changesOnly_setPc _ _)

/-! ### Loads and the addition of a byte (R140 to R142) -/

/-- `6xkk` is one register write (R140). -/
theorem exec_ldByte (x : RegIdx) (kk : Byte) (s : State) : exec (.ldByte x kk) s = .next (s.finishV x kk) := rfl

/-- `7xkk` is one register write; VF plays no part in it (R141). -/
theorem exec_addByte (x : RegIdx) (kk : Byte) (s : State) :
    exec (.addByte x kk) s = .next (s.finishV x (s.readV x + kk)) := rfl

/-- `8xy0` is one register write (R142). -/
theorem exec_ldReg (x y : RegIdx) (s : State) : exec (.ldReg x y) s = .next (s.finishV x (s.readV y)) := rfl

/-- Settles O24: each of the three is a single `finishV`, and the sum of two bytes is the sum modulo 256. -/
theorem loadsAndAddByteWriteOneRegister : Obligations.LoadsAndAddByteWriteOneRegister := by
  intro x y kk s
  refine ⟨rfl, rfl, rfl, ?ldByte, ?addByte, ?ldReg⟩
  case ldByte => exact ⟨_, exec_ldByte x kk s, s.readV_finishV_self x _, s.finishV_pc x _, s.changesOnly_finishV x _⟩
  case addByte =>
    refine ⟨_, exec_addByte x kk s, ?_, s.finishV_pc x _, s.changesOnly_finishV x _⟩
    rw [State.readV_finishV_self, BitVec.toNat_add]
  case ldReg => exact ⟨_, exec_ldReg x y s, s.readV_finishV_self x _, s.finishV_pc x _, s.changesOnly_finishV x _⟩

/-! ### The addition of registers (R146) -/

/-- The carry as the byte that R146 writes to VF. -/
theorem carryFlag_eq (a b : Byte) : carryFlag a b = if a.toNat + b.toNat > 255 then 1#8 else 0#8 := by
  simp [carryFlag, flagByte]

/-- `8xy4` writes the sum and then the carry of the old operands, which so survives `x = 0xF` (R146). -/
theorem exec_addReg (x y : RegIdx) (s : State) :
    exec (.addReg x y) s =
      .next ((s.setV x (s.readV x + s.readV y)).finishV vf (carryFlag (s.readV x) (s.readV y))) := rfl

/-- Settles O26: the write of VF comes last, so it holds the carry for all `x` and `y`, and a `V[x]` that is not VF keeps
the sum. -/
theorem addSetsCarry : Obligations.AddSetsCarry := by
  intro x y s
  refine ⟨rfl, _, exec_addReg x y s, State.finishV_pc _ vf _, ?carry, fun hx => ?sum, ?frame⟩
  case carry => rw [State.readV_finishV_self, carryFlag_eq]
  case sum => rw [State.readV_finishV, if_neg hx, State.readV_setV, if_pos rfl, BitVec.toNat_add]
  case frame => exact (s.changesOnly_setV x _).trans (State.changesOnly_finishV _ vf _)

end Sys2Proof.Machine
end

section
/-! PROOFS. The statements on the display (44_display.md). A framebuffer put in the place of another goes unchanged
through every operation that does not look at it; what is left is `00E0`, which forgets the old framebuffer, and `Dxyn`,
which writes VF and the framebuffer alone. -/

namespace Sys2Proof.Machine

/-! ### The clear (R192) -/

/-- Writing the framebuffer leaves every register and every part but the display as it was. -/
theorem State.changesOnly_setFb (s : State) (f : FrameBuffer) : ChangesOnly s (s.setFb f) [] [.display] := by
  refine ⟨fun r _ => State.setFb_readV s f r, fun p hp => ?_⟩
  cases p
  case display => exact absurd List.mem_cons_self hp
  all_goals simp [Part.same]

/-- `00E0` is the clear of the display and the ordinary advance (R192). -/
theorem exec_cls (s : State) : exec .cls s = .next (s.clearDisplay false).advance := rfl

/-- Settles O38: `00E0` is one write of the framebuffer followed by the advance, and a cleared pixel reads as off. -/
theorem clearBlanksTheDisplay : Obligations.ClearBlanksTheDisplay := by
  intro s
  refine ⟨rfl, _, exec_cls s, rfl, ?frame, fun row col => ?off⟩
  case frame => exact (s.changesOnly_setFb _).trans (State.changesOnly_setPc _ _)
  case off => rw [State.advance_getPixel, State.getPixel_clearDisplay, Bool.false_and]

/-! ### The operations that do not look at the framebuffer (R194) -/

section
variable (s : State) (f : FrameBuffer)

theorem State.skipIf_setFb (c : Bool) : (s.setFb f).skipIf c = (s.skipIf c).setFb f := by
  cases c <;> rfl

theorem State.receiveKey_setFb (x : RegIdx) (answer : Option Key) :
    (s.setFb f).receiveKey x answer = (s.receiveKey x answer).setFb f := by
  cases answer <;> rfl

theorem State.memWriteList_setFb (a : Nat) (xs : List Byte) :
    (s.setFb f).memWriteList a xs = (s.memWriteList a xs).setFb f := by
  induction xs generalizing s a with
  | nil => rfl
  | cons x xs ih => exact ih (s.memWrite a x) (a + 1)

theorem State.storeV_setFb (base n : Nat) : (s.setFb f).storeV base n = (s.storeV base n).setFb f := by
  induction n with
  | zero => rfl
  | succ n ih => rw [State.storeV, ih]; rfl

theorem State.loadV_setFb (base n : Nat) : (s.setFb f).loadV base n = (s.loadV base n).setFb f := by
  induction n with
  | zero => rfl
  | succ n ih => rw [State.loadV, ih]; rfl

end

/-! ### The instructions (R194) -/

/-- The ordinary advance carries a replaced framebuffer along. -/
theorem next_advance_setFb {t u : State} {f : FrameBuffer} (h : u = t.setFb f) :
    (.next u.advance : Result) = .next (t.advance.setFb f) := by
  rw [h]; rfl

/-- `00EE` tests `SP` and reads the stack, in the same way under any framebuffer. -/
theorem execRet_setFb {s t : State} (f : FrameBuffer) (h : execRet s = .next t) :
    execRet (s.setFb f) = .next (t.setFb f) := by
  obtain ⟨hsp, rfl⟩ | ⟨hsp, a, htop, rfl⟩ := execRet_cases h
  · exact if_pos hsp
  · have htop' : (s.setFb f).top = some a := htop
    rw [execRet, State.setFb_sp, if_neg hsp, htop']; rfl

/-- `2nnn` tests `SP`, in the same way under any framebuffer. -/
theorem execCall_setFb {nnn : Addr} {s t : State} (f : FrameBuffer) (h : execCall nnn s = .next t) :
    execCall nnn (s.setFb f) = .next (t.setFb f) := by
  obtain ⟨hsp, rfl⟩ | ⟨hsp, rfl⟩ := execCall_cases h
  · exact if_pos hsp
  · have hsp' : s.sp ≠ 16#8 := fun e => by simp [e] at hsp
    rw [execCall, State.setFb_sp, if_neg hsp', if_pos hsp]; rfl

/-- Every instruction but `00E0` and `Dxyn` carries a replaced framebuffer along and is otherwise the same (R194). -/
theorem exec_setFb {i : Instr} (hcls : i ≠ .cls) (hdrw : ∀ x y n, i ≠ .drw x y n) {s t : State} (f : FrameBuffer)
    (h : exec i s = .next t) : exec i (s.setFb f) = .next (t.setFb f) := by
  cases i
  case cls => exact absurd rfl hcls
  case drw x y n => exact absurd rfl (hdrw x y n)
  case ret => exact execRet_setFb f h
  case call nnn => exact execCall_setFb f h
  case seByte | sneByte | seReg | sneReg => cases h; exact next_advance_setFb (State.skipIf_setFb s f _)
  case skp | sknp => cases h; exact next_advance_setFb (State.skipIf_setFb (s.setEnv _) f _)
  case waitKey x => cases h; exact congrArg Host.Outcome.next (State.receiveKey_setFb (s.setEnv _) f x _)
  case ldB => cases h; exact next_advance_setFb (s.memWriteList_setFb f _ _)
  case storeRegs x => cases h; exact next_advance_setFb (congrArg (State.setI · (s.nextI x)) (s.storeV_setFb f _ _))
  case loadRegs x => cases h; exact next_advance_setFb (congrArg (State.setI · (s.nextI x)) (s.loadV_setFb f _ _))
  all_goals cases h; rfl

/-- `00E0` forgets the framebuffer it finds (R192). -/
theorem exec_cls_setFb (s : State) (f : FrameBuffer) : exec .cls (s.setFb f) = exec .cls s := rfl

/-- Of two writes to one register the second stands. -/
theorem State.setV_setV (s : State) (x : RegIdx) (a b : Byte) : (s.setV x a).setV x b = s.setV x b := by
  simp [State.setV]

/-- `Dxyn` writes VF, the framebuffer and `PC`, and `PC` by the ordinary advance (R193). -/
theorem exists_exec_drw_eq (x y : RegIdx) (n : Nibble) (s : State) :
    ∃ b g, exec (.drw x y n) s = .next ((s.setV vf b).setFb g).advance := by
  rw [exec, execDrw, State.drawRows_eq, State.setV_setV]
  exact ⟨_, _, rfl⟩

/-- Settles O41: under another framebuffer `00E0` ends in the same state, `Dxyn` in one that differs in VF and the
framebuffer, and every other instruction in the same state but for the framebuffer. -/
theorem framebufferReachesOnlyVfThroughDraw : Obligations.FramebufferReachesOnlyVfThroughDraw := by
  intro i s t f h
  by_cases hcls : i = .cls
  · subst hcls
    exact ⟨t, (exec_cls_setFb s f).trans h, rfl, fun _ _ => rfl, fun _ => rfl⟩
  by_cases hdrw : ∃ x y n, i = .drw x y n
  · obtain ⟨x, y, n, rfl⟩ := hdrw
    obtain ⟨b, g, hs⟩ := exists_exec_drw_eq x y n s
    obtain ⟨b', g', hf⟩ := exists_exec_drw_eq x y n (s.setFb f)
    cases hs.symm.trans h
    exact ⟨_, hf, rfl, fun r hr => by simp [hr], fun hne => absurd rfl (hne x y n)⟩
  · have hdrw' : ∀ x y n, i ≠ .drw x y n := fun x y n e => hdrw ⟨x, y, n, e⟩
    exact ⟨t.setFb f, exec_setFb hcls hdrw' f h, rfl, fun r _ => t.setFb_readV f r, fun _ => rfl⟩

end Sys2Proof.Machine
end

section
/-! PROOFS. The statement on the timer transfers (45_input_timers.md R213 to R215). `Fx07` is a register write that ends in
`finishV`; `Fx15` and `Fx18` are one write of a timer, whose frame is said once, and the ordinary advance. -/

namespace Sys2Proof.Machine

/-- Writing `DT` leaves every register and every part but the delay timer as it was. -/
theorem State.changesOnly_setDt (s : State) (b : Byte) : ChangesOnly s (s.setDt b) [] [.delay] := by
  refine ⟨fun r _ => s.setDt_readV b r, fun p hp => ?_⟩
  cases p
  case delay => simp at hp
  all_goals simp [Part.same]

/-- Writing `ST` leaves every register and every part but the sound timer as it was. -/
theorem State.changesOnly_setSt (s : State) (b : Byte) : ChangesOnly s (s.setSt b) [] [.sound] := by
  refine ⟨fun r _ => s.setSt_readV b r, fun p hp => ?_⟩
  cases p
  case sound => simp at hp
  all_goals simp [Part.same]

/-- `Fx07` is one register write (R213). -/
theorem exec_ldVxDT (x : RegIdx) (s : State) : exec (.ldVxDT x) s = .next (s.finishV x s.dt) := rfl

/-- `Fx15` is one write of the delay timer and the ordinary advance (R214). -/
theorem exec_ldDT (x : RegIdx) (s : State) : exec (.ldDT x) s = .next (s.setDt (s.readV x)).advance := rfl

/-- `Fx18` is one write of the sound timer and the ordinary advance (R215). -/
theorem exec_ldST (x : RegIdx) (s : State) : exec (.ldST x) s = .next (s.setSt (s.readV x)).advance := rfl

/-- Settles O44: `Fx07` is a single `finishV`; `Fx15` and `Fx18` write one timer and then `PC`, and the frames of the two
writes compose. -/
theorem timerTransfers : Obligations.TimerTransfers := by
  intro x s
  refine ⟨rfl, rfl, rfl, ?ldVxDT, ?ldDT, ?ldST⟩
  case ldVxDT => exact ⟨_, exec_ldVxDT x s, s.readV_finishV_self x _, s.finishV_pc x _, s.changesOnly_finishV x _⟩
  case ldDT => exact ⟨_, exec_ldDT x s, rfl, rfl, (s.changesOnly_setDt _).trans (State.changesOnly_setPc _ _)⟩
  case ldST => exact ⟨_, exec_ldST x s, rfl, rfl, (s.changesOnly_setSt _).trans (State.changesOnly_setPc _ _)⟩

end Sys2Proof.Machine
end

section
/-! PROOFS. The statements on the encoding (30_encoding.md). Decoding and encoding are both said through the fields of a
word: a word is the packing of its fields, and a row's test is a test of the fields that its mask keeps. -/

namespace Sys2Proof

/-! ### A word is the packing of its fields (R81, R82) -/

/-- Neighbouring fields of a word, put together again, are one field. -/
theorem extract_append_extract (op : Word) (start len len' : Nat) :
    op.extractLsb' (start + len) len' ++ op.extractLsb' start len = op.extractLsb' start (len' + len) :=
  BitVec.extractLsb'_append_extractLsb'_eq_extractLsb' rfl

theorem packA_fields (op : Word) : packA (fieldTop op) (fieldNnn op) = op :=
  (extract_append_extract op 0 12 4).trans BitVec.extractLsb'_eq_self

theorem fieldKk_eq_append (op : Word) : fieldKk op = fieldY op ++ fieldN op :=
  (extract_append_extract op 0 4 4).symm

theorem fieldNnn_eq_append (op : Word) : fieldNnn op = fieldX op ++ fieldKk op :=
  (extract_append_extract op 0 8 4).symm

/-- `top` and `x` are the high byte. -/
theorem fieldTop_append_fieldX (op : Word) : fieldTop op ++ fieldX op = op.extractLsb' 8 8 :=
  extract_append_extract op 8 4 4

/-- `x` and `y` are the middle byte. -/
theorem fieldX_append_fieldY (op : Word) : fieldX op ++ fieldY op = op.extractLsb' 4 8 :=
  extract_append_extract op 4 4 4

theorem fieldNnn_eq_append_append (op : Word) : fieldNnn op = fieldX op ++ fieldY op ++ fieldN op := by
  rw [fieldX_append_fieldY]
  exact (extract_append_extract op 0 4 8).symm

theorem packXK_fields (op : Word) : packXK (fieldTop op) (fieldX op) (fieldKk op) = op := by
  rw [packXK, fieldTop_append_fieldX]
  exact (extract_append_extract op 0 8 8).trans BitVec.extractLsb'_eq_self

theorem packXYN_fields (op : Word) : packXYN (fieldTop op) (fieldX op) (fieldY op) (fieldN op) = op := by
  have hhigh : op.extractLsb' 8 8 ++ fieldY op = op.extractLsb' 4 12 := extract_append_extract op 4 4 8
  rw [packXYN, fieldTop_append_fieldX, hhigh]
  exact (extract_append_extract op 0 4 12).trans BitVec.extractLsb'_eq_self

/-! ### The encoder undoes the decoder -/

theorem encode_decodeFamily0 (op : Word) : encode (decodeFamily0 op) = op := by
  unfold decodeFamily0
  split_ifs with hcls hret
  · exact hcls.symm
  · exact hret.symm
  · rfl

theorem encode_decodeFamily8 {op : Word} (htop : fieldTop op = 0x8#4) : encode (decodeFamily8 op) = op := by
  have hop := packXYN_fields op
  unfold decodeFamily8
  split
  case h_10 => rfl
  all_goals simpa [encode, *] using hop

theorem encode_decodeFamilyE {op : Word} (htop : fieldTop op = 0xE#4) : encode (decodeFamilyE op) = op := by
  have hop := packXK_fields op
  unfold decodeFamilyE
  split
  case h_3 => rfl
  all_goals simpa [encode, *] using hop

theorem encode_decodeFamilyF {op : Word} (htop : fieldTop op = 0xF#4) : encode (decodeFamilyF op) = op := by
  have hop := packXK_fields op
  unfold decodeFamilyF
  split
  case h_10 => rfl
  all_goals simpa [encode, *] using hop

/-- A nibble that is none of the first fifteen is the last: the default family of R84. -/
theorem nibble_eq_f : ∀ t : Nibble, t ≠ 0x0#4 → t ≠ 0x1#4 → t ≠ 0x2#4 → t ≠ 0x3#4 → t ≠ 0x4#4 → t ≠ 0x5#4 →
    t ≠ 0x6#4 → t ≠ 0x7#4 → t ≠ 0x8#4 → t ≠ 0x9#4 → t ≠ 0xA#4 → t ≠ 0xB#4 → t ≠ 0xC#4 → t ≠ 0xD#4 → t ≠ 0xE#4 →
    t = 0xF#4 := by
  bv_omega

/-- Encoding what a word decodes to gives the word back (R81, R87). -/
theorem encode_decodeWord (op : Word) : encode (decodeWord op) = op := by
  have hA := packA_fields op
  have hXK := packXK_fields op
  have hXYN := packXYN_fields op
  unfold decodeWord
  split
  case h_1 => exact encode_decodeFamily0 op
  case h_6 h | h_10 h =>
    split_ifs with hn
    · simpa [encode, h, hn] using hXYN
    · rfl
  case h_9 h => exact encode_decodeFamily8 h
  case h_15 h => exact encode_decodeFamilyE h
  case h_16 =>
    have htop : fieldTop op = 0xF#4 := by apply nibble_eq_f <;> assumption
    exact encode_decodeFamilyF htop
  all_goals simp_all [encode]

/-- Only the word itself can be the unmatched word of an instruction that was decoded from it (R87). -/
theorem eq_of_decodeWord_unimpl {op op' : Word} (h : decodeWord op = .unimpl op') : op' = op := by
  have hop := encode_decodeWord op
  rwa [h] at hop

/-! ### The decoder undoes the encoder -/

/-- Every instruction with a row of its own is read back from its word (R85). -/
theorem decodeWord_encode_of_ne_unimpl {i : Instr} (hi : ∀ op, i ≠ .unimpl op) : decodeWord (encode i) = i := by
  cases i
  case unimpl op => exact absurd rfl (hi op)
  case cls | ret => decide
  all_goals simp [encode, decodeWord, decodeFamily8, decodeFamilyE, decodeFamilyF]

/-! ### The row of a word (R85) -/

theorem fieldTop_and (a b : Word) : fieldTop (a &&& b) = fieldTop a &&& fieldTop b := BitVec.extractLsb'_and

theorem fieldKk_and (a b : Word) : fieldKk (a &&& b) = fieldKk a &&& fieldKk b := BitVec.extractLsb'_and

theorem fieldN_and (a b : Word) : fieldN (a &&& b) = fieldN a &&& fieldN b := BitVec.extractLsb'_and

/-- A word that a row covers has the row's value in the fields that the row's mask keeps. -/
theorem fields_of_covers {r : OpRow} {op : Word} (h : r.covers op = true) :
    fieldTop op &&& fieldTop r.mask = fieldTop r.value ∧ fieldKk op &&& fieldKk r.mask = fieldKk r.value ∧
      fieldN op &&& fieldN r.mask = fieldN r.value := by
  have hop : op &&& r.mask = r.value := by simpa [OpRow.covers] using h
  simp only [← hop, fieldTop_and, fieldKk_and, fieldN_and, and_self]

theorem nibble_and_f (t : Nibble) : t &&& 0xF#4 = t := BitVec.and_allOnes

theorem byte_and_ff (b : Byte) : b &&& 0xFF#8 = b := BitVec.and_allOnes

/-- A row that fixes all 16 bits covers its value alone. -/
theorem eq_value_of_covers_word {v op : Word} (h : OpRow.covers ⟨0xFFFF, v⟩ op = true) : op = v := by
  have hop : op &&& BitVec.allOnes 16 = v := eq_of_beq h
  rwa [BitVec.and_allOnes] at hop

/-- The instruction of a word that a row covers is of that row. The two rows of family 0 fix the whole word; in every other
row the fields that the mask keeps select one branch of the decoder. -/
theorem row_decodeWord {r : OpRow} (hr : r ∈ opTable) {op : Word} (h : r.covers op = true) : (decodeWord op).row = r := by
  obtain ⟨htop, hkk, hn⟩ := fields_of_covers h
  simp only [opTable, List.mem_append, List.mem_cons, List.not_mem_nil, or_false, or_assoc] at hr
  rcases hr with rfl | rfl | hr
  case inl => rw [eq_value_of_covers_word h]; decide
  case inr.inl => rw [eq_value_of_covers_word h]; decide
  rcases hr with rfl | rfl | rfl | rfl | rfl | rfl | rfl | rfl | rfl | rfl | rfl | rfl | rfl | rfl | rfl | rfl | rfl | rfl |
    rfl | rfl | rfl | rfl | rfl | rfl | rfl | rfl | rfl | rfl | rfl | rfl | rfl | rfl
  all_goals
    simp [fieldTop, fieldKk, fieldN, nibble_and_f, byte_and_ff] at htop hkk hn
    simp [decodeWord, decodeFamily8, decodeFamilyE, decodeFamilyF, Instr.row, fieldTop, fieldN, fieldKk, *]

/-- Every instruction but the unmatched word has a row of the opcode map (R85). -/
theorem row_mem_opTable {i : Instr} (hi : ∀ op, i ≠ .unimpl op) : i.row ∈ opTable := by
  cases i
  case unimpl op => exact absurd rfl (hi op)
  all_goals simp [Instr.row, opTable]

/-- The row of an instruction covers its word: the family EncodedInRow. -/
theorem covers_encode (i : Instr) : i.row.covers (encode i) = true := by
  open Laws.EncodedInRow in
  cases i
  exacts [cls, ret, jp _, call _, seByte _ _, sneByte _ _, seReg _ _, ldByte _ _, addByte _ _, ldReg _ _, orReg _ _,
    andReg _ _, xorReg _ _, addReg _ _, subReg _ _, shrReg _ _, subnReg _ _, shlReg _ _, sneReg _ _, ldI _, jpV0 _, rnd _ _,
    drw _ _ _, skp _, sknp _, ldVxDT _, waitKey _, ldDT _, ldST _, addI _, ldF _, ldB _, storeRegs _, loadRegs _, unimpl _]

/-- A word that some row covers decodes to no unmatched word. -/
theorem decodeWord_ne_unimpl_of_covers {r : OpRow} (hr : r ∈ opTable) {op : Word} (h : r.covers op = true) (op' : Word) :
    decodeWord op ≠ .unimpl op' := by
  intro hd
  have hrow : (⟨0x0000, 0x0000⟩ : OpRow) = r := by simpa [hd, Instr.row] using row_decodeWord hr h
  subst hrow
  exact absurd hr (by decide)

/-- A word that no row covers decodes to itself, unmatched (R87). -/
theorem decodeWord_eq_unimpl {op : Word} (h : ∀ r ∈ opTable, r.covers op = false) : decodeWord op = .unimpl op := by
  by_cases hd : ∃ op', decodeWord op = .unimpl op'
  · obtain ⟨op', hd⟩ := hd
    rw [hd, eq_of_decodeWord_unimpl hd]
  · have hcov := covers_encode (decodeWord op)
    rw [encode_decodeWord, h _ (row_mem_opTable fun op' e => hd ⟨op', e⟩)] at hcov
    cases hcov

theorem matchedWord_eq_false_iff (op : Word) : matchedWord op = false ↔ ∀ r ∈ opTable, r.covers op = false := by
  simp [matchedWord]

/-- Only an unmatched instruction can be ill formed. -/
theorem wellFormed_of_ne_unimpl {i : Instr} (hi : ∀ op, i ≠ .unimpl op) : i.wellFormed = true := by
  cases i
  case unimpl op => exact absurd rfl (hi op)
  all_goals rfl

theorem wellFormed_unimpl_iff (op : Word) :
    (Instr.unimpl op).wellFormed = true ↔ ∀ r ∈ opTable, r.covers op = false := by
  rw [← matchedWord_eq_false_iff]
  simp [Instr.wellFormed]

/-- A well-formed instruction is read back from its word (R80 to R87). -/
theorem decodeWord_encode {i : Instr} (hi : i.wellFormed = true) : decodeWord (encode i) = i := by
  by_cases hu : ∃ op, i = .unimpl op
  · obtain ⟨op, rfl⟩ := hu
    exact decodeWord_eq_unimpl ((wellFormed_unimpl_iff op).mp hi)
  · exact decodeWord_encode_of_ne_unimpl fun op e => hu ⟨op, e⟩

/-- The decoder gives only well-formed instructions (R87). -/
theorem wellFormed_decodeWord (op : Word) : (decodeWord op).wellFormed = true := by
  by_cases hc : ∀ r ∈ opTable, r.covers op = false
  · rw [decodeWord_eq_unimpl hc]
    exact (wellFormed_unimpl_iff op).mpr hc
  · push Not at hc
    obtain ⟨r, hr, hcov⟩ := hc
    exact wellFormed_of_ne_unimpl (decodeWord_ne_unimpl_of_covers hr (Bool.eq_true_of_not_eq_false hcov))

/-! ### The statements -/

/-- Settles O1: the word of a well-formed instruction decodes to it, and its two bytes are that word. -/
theorem decodeOfEncodeIsIdentity : Obligations.DecodeOfEncodeIsIdentity := by
  intro i rest hi
  have hdec := decodeWord_encode hi
  exact ⟨hdec, by rw [decodeBytes_bytesOfWord, hdec]⟩

/-- Settles O2: every family of the decoder keeps all fields of the word. -/
theorem encodeOfDecodeIsIdentity : Obligations.EncodeOfDecodeIsIdentity :=
  fun op => ⟨encode_decodeWord op, wellFormed_decodeWord op⟩

/-- Settles O3: the row of the decoded instruction is the row that covers the word, so two rows that cover it are equal. -/
theorem decodedInstructionIsOfTheOnlyMatchingRow : Obligations.DecodedInstructionIsOfTheOnlyMatchingRow :=
  ⟨fun _ _ hr h => row_decodeWord hr h,
    fun _ _ _ hr hr' h h' => (row_decodeWord hr h).symm.trans (row_decodeWord hr' h'),
    fun _ h => decodeWord_eq_unimpl h⟩

/-- Settles O4: neighbouring fields put together are one field, and all four are the whole word. -/
theorem fieldsOverlapAsConcatenations : Obligations.FieldsOverlapAsConcatenations :=
  fun op => ⟨fieldKk_eq_append op, fieldNnn_eq_append_append op, fieldNnn_eq_append op, (packXYN_fields op).symm⟩

/-- Settles O5: the words are closed, so the decoder runs on them. -/
theorem sampleWordsDecode : Obligations.SampleWordsDecode := by
  unfold Obligations.SampleWordsDecode
  decide

end Sys2Proof
end

section
/-! PROOFS. The rules of the whole machine on what an instruction may write (10_state.md, 20_memory.md section 4). What each
instruction may write is tabulated once, `exec_changesOnly` says that the meanings keep to the table, and each rule is read
off the table. -/

namespace Sys2Proof.Machine

/-! ### The table -/

/-- The registers `V[0]`..`V[x]`. -/
def regsUpTo (x : RegIdx) : List RegIdx := (List.range (x.toNat + 1)).map (BitVec.ofNat 4)

theorem mem_regsUpTo {x r : RegIdx} : r ∈ regsUpTo x ↔ r.toNat ≤ x.toNat := by
  simp only [regsUpTo, List.mem_map, List.mem_range]
  constructor
  · rintro ⟨k, hk, rfl⟩
    have hmod := Nat.mod_le k (2 ^ 4)
    rw [BitVec.toNat_ofNat]
    omega
  · exact fun h => ⟨r.toNat, by omega, by simp⟩

/-- The general registers an instruction may write: its destination and, for a flag producer, VF (R21, R153). -/
def mayWriteRegs : Instr → List RegIdx
  | .ldByte x _ | .addByte x _ | .rnd x _ | .ldVxDT x | .waitKey x => [x]
  | .ldReg x _ | .orReg x _ | .andReg x _ | .xorReg x _ => [x]
  | .addReg x _ | .subReg x _ | .shrReg x _ | .subnReg x _ | .shlReg x _ => [x, vf]
  | .drw _ _ _ => [vf]
  | .loadRegs x => regsUpTo x
  | _ => []

/-- The other parts of the state an instruction may write, `PC` apart. -/
def mayWriteParts : Instr → List Part
  | .cls | .drw _ _ _ => [.display]
  | .ret => [.sp, .fault]
  | .call _ => [.stack, .sp, .fault]
  | .ldI _ | .addI _ | .ldF _ | .loadRegs _ => [.index]
  | .rnd _ _ | .skp _ | .sknp _ => [.env]
  | .waitKey _ => [.wait, .wreg, .env]
  | .ldDT _ => [.delay]
  | .ldST _ => [.sound]
  | .ldB _ => [.memory]
  | .storeRegs _ => [.memory, .index]
  | .unimpl _ => [.outputs]
  | _ => []

/-! ### The frame of each write of the state -/

/-- A frame may be widened. -/
theorem ChangesOnly.mono {s t : State} {regs regs' : List RegIdx} {parts parts' : List Part}
    (h : ChangesOnly s t regs parts) (hr : regs ⊆ regs') (hp : parts ⊆ parts') : ChangesOnly s t regs' parts' :=
  ⟨fun r hr' => h.1 r fun hm => hr' (hr hm), fun p hp' => h.2 p fun hm => hp' (hp hm)⟩

/-- The ordinary advance writes `PC` alone. -/
theorem ChangesOnly.advance {s t : State} {regs : List RegIdx} {parts : List Part} (h : ChangesOnly s t regs parts) :
    ChangesOnly s t.advance regs parts := by
  exact (h.trans (State.changesOnly_setPc t _)).mono (by simp) (by simp)

section
variable (s : State)

theorem State.changesOnly_self : ChangesOnly s s [] [] := State.changesOnly_setPc s s.pc

theorem State.changesOnly_setI (a : Word) : ChangesOnly s (s.setI a) [] [.index] :=
  ⟨fun _ _ => rfl, fun p hp => by cases p <;> simp_all [Part.same]⟩

theorem State.changesOnly_setSp (b : Byte) : ChangesOnly s (s.setSp b) [] [.sp] :=
  ⟨fun _ _ => rfl, fun p hp => by cases p <;> simp_all [Part.same]⟩

theorem State.changesOnly_setStack (k : Nat) (a : Word) : ChangesOnly s (s.setStack k a) [] [.stack] :=
  ⟨fun _ _ => rfl, fun p hp => by cases p <;> simp_all [Part.same]⟩

theorem State.changesOnly_setFault (c : BitVec 2) : ChangesOnly s (s.setFault c) [] [.fault] :=
  ⟨fun _ _ => rfl, fun p hp => by cases p <;> simp_all [Part.same]⟩

theorem State.changesOnly_setWait (w : Bool) : ChangesOnly s (s.setWait w) [] [.wait] :=
  ⟨fun _ _ => rfl, fun p hp => by cases p <;> simp_all [Part.same]⟩

theorem State.changesOnly_setWreg (x : RegIdx) : ChangesOnly s (s.setWreg x) [] [.wreg] :=
  ⟨fun _ _ => rfl, fun p hp => by cases p <;> simp_all [Part.same]⟩

theorem State.changesOnly_setMem (m : Memory) : ChangesOnly s (s.setMem m) [] [.memory] :=
  ⟨fun _ _ => rfl, fun p hp => by cases p <;> simp_all [Part.same]⟩

theorem State.changesOnly_setEnv (e : Env) : ChangesOnly s (s.setEnv e) [] [.env] :=
  ⟨fun _ _ => rfl, fun p hp => by cases p <;> simp_all [Part.same]⟩

theorem State.changesOnly_setLoadable (b : Bool) : ChangesOnly s (s.setLoadable b) [] [.loadable] :=
  ⟨fun _ _ => rfl, fun p hp => by cases p <;> simp_all [Part.same]⟩

theorem State.changesOnly_emit (o : Output) : ChangesOnly s (s.emit o) [] [.outputs] :=
  ⟨fun _ _ => rfl, fun p hp => by cases p <;> simp_all [Part.same]⟩

theorem State.changesOnly_push (a : Word) : ChangesOnly s (s.push a) [] [.stack, .sp] :=
  (s.changesOnly_setStack _ _).trans (State.changesOnly_setSp _ _)

theorem State.changesOnly_skipIf (c : Bool) : ChangesOnly s (s.skipIf c) [] [] := by
  cases c
  · exact s.changesOnly_self
  · exact s.changesOnly_setPc _

theorem State.changesOnly_memWriteList (a : Nat) (xs : List Byte) : ChangesOnly s (s.memWriteList a xs) [] [.memory] := by
  rw [State.memWriteList_eq]
  exact s.changesOnly_setMem _

theorem State.changesOnly_storeV (base n : Nat) : ChangesOnly s (s.storeV base n) [] [.memory] := by
  rw [State.storeV_eq]
  exact s.changesOnly_setMem _

theorem State.changesOnly_loadV (base : Nat) (x : RegIdx) : ChangesOnly s (s.loadV base (x.toNat + 1)) (regsUpTo x) [] := by
  refine ⟨fun r hr => ?_, fun p _ => by cases p <;> simp [Part.same]⟩
  have hx := x.isLt
  rw [mem_regsUpTo] at hr
  rw [State.readV_loadV _ _ _ (by omega), if_neg (by omega)]

theorem State.changesOnly_drawRows (row col n : Nat) : ChangesOnly s (s.drawRows row col n) [vf] [.display] := by
  rw [State.drawRows_eq]
  exact (s.changesOnly_setV vf _).trans (State.changesOnly_setFb _ _)

/-- A key writes its register and ends the wait (R212). -/
theorem State.changesOnly_receiveKey_some (x : RegIdx) (k : Key) : ChangesOnly s (s.receiveKey x (some k)) [x] [.wait] :=
  ((s.changesOnly_setV x _).trans (State.changesOnly_setWait _ _)).advance

/-- No key writes the wait state alone (R212). -/
theorem State.changesOnly_receiveKey_none (x : RegIdx) : ChangesOnly s (s.receiveKey x none) [] [.wait, .wreg] :=
  (s.changesOnly_setWait _).trans (State.changesOnly_setWreg _ _)

theorem State.changesOnly_receiveKey (x : RegIdx) (answer : Option Key) :
    ChangesOnly s (s.receiveKey x answer) [x] [.wait, .wreg] := by
  cases answer with
  | none => exact (s.changesOnly_receiveKey_none x).mono (by simp) (by simp)
  | some k => exact (s.changesOnly_receiveKey_some x k).mono (by simp) (by simp)

end

/-! ### Every instruction keeps to the table -/

theorem execRet_changesOnly {s t : State} (h : execRet s = .next t) : ChangesOnly s t [] [.sp, .fault] := by
  obtain ⟨-, rfl⟩ | ⟨-, a, -, rfl⟩ := execRet_cases h
  · exact (s.changesOnly_setFault _).mono (by simp) (by simp)
  · exact ((s.changesOnly_setSp _).trans (State.changesOnly_setPc _ a)).advance.mono (by simp) (by simp)

theorem execCall_changesOnly {nnn : Addr} {s t : State} (h : execCall nnn s = .next t) :
    ChangesOnly s t [] [.stack, .sp, .fault] := by
  obtain ⟨-, rfl⟩ | ⟨-, rfl⟩ := execCall_cases h
  · exact (s.changesOnly_setFault _).mono (by simp) (by simp)
  · exact ((s.changesOnly_push _).trans (State.changesOnly_setPc _ _)).mono (by simp) (by simp)

/-- An instruction that answers a next state writes `PC` and what the table lists for it, and nothing else. -/
theorem exec_changesOnly {i : Instr} {s t : State} (h : exec i s = .next t) :
    ChangesOnly s t (mayWriteRegs i) (mayWriteParts i) := by
  cases i
  case ret => exact execRet_changesOnly h
  case call nnn => exact execCall_changesOnly h
  all_goals cases h
  case cls => exact (s.changesOnly_setFb _).advance
  case jp | jpV0 => exact s.changesOnly_setPc _
  case seByte | sneByte | seReg | sneReg => exact (s.changesOnly_skipIf _).advance
  case ldByte | addByte | ldReg | orReg | andReg | xorReg | ldVxDT => exact s.changesOnly_finishV _ _
  case addReg => exact (s.changesOnly_setV _ _).trans (State.changesOnly_finishV _ _ _)
  case subReg | subnReg =>
    exact ((s.changesOnly_setV _ _).trans (State.changesOnly_finishV _ _ _)).mono (by simp [mayWriteRegs]) (by simp)
  case shrReg | shlReg =>
    exact (((s.changesOnly_setV _ _).trans (State.changesOnly_setV _ _ _)).trans (State.changesOnly_finishV _ _ _)).mono
      (by simp [mayWriteRegs]) (by simp [mayWriteParts])
  case rnd => exact (s.changesOnly_setEnv _).trans (State.changesOnly_finishV _ _ _)
  case drw =>
    exact ((s.changesOnly_setV _ _).trans (State.changesOnly_drawRows _ _ _ _)).advance.mono
      (by simp [mayWriteRegs]) (by simp [mayWriteParts])
  case skp | sknp => exact ((s.changesOnly_setEnv _).trans (State.changesOnly_skipIf _ _)).advance
  case waitKey =>
    exact ((s.changesOnly_setEnv _).trans (State.changesOnly_receiveKey _ _ _)).mono
      (by simp [mayWriteRegs]) (by simp [mayWriteParts])
  case ldDT => exact (s.changesOnly_setDt _).advance
  case ldST => exact (s.changesOnly_setSt _).advance
  case ldI | addI | ldF => exact (s.changesOnly_setI _).advance
  case ldB => exact (s.changesOnly_memWriteList _ _).advance
  case storeRegs => exact ((s.changesOnly_storeV _ _).trans (State.changesOnly_setI _ _)).advance
  case loadRegs =>
    exact ((s.changesOnly_loadV _ _).trans (State.changesOnly_setI _ _)).advance.mono
      (by simp [mayWriteRegs]) (by simp [mayWriteParts])
  case unimpl => exact (s.changesOnly_emit _).advance

/-- A part that the table does not list for an instruction is left alone by it. -/
theorem exec_same {i : Instr} {s t : State} (h : exec i s = .next t) {p : Part} (hp : p ∉ mayWriteParts i) : p.same s t :=
  (exec_changesOnly h).2 p hp

/-! ### The rules -/

/-- Settles O45: the table lists memory for `Fx33` and `Fx55` alone, and the font for none. -/
theorem onlyStoresChangeMemory : Obligations.OnlyStoresChangeMemory := by
  intro i s t h
  have hfont : Part.font ∉ mayWriteParts i := by cases i <;> simp [mayWriteParts]
  refine ⟨exec_same h hfont, fun hldB hstore => ?_⟩
  have hmem : Part.memory ∉ mayWriteParts i := by cases i <;> simp_all [mayWriteParts]
  exact exec_same h hmem

/-- Settles O46: the table lists the display for `00E0` and `Dxyn` alone. -/
theorem onlyClearAndDrawChangeTheDisplay : Obligations.OnlyClearAndDrawChangeTheDisplay := by
  intro i s t h hcls hdrw
  have hp : Part.display ∉ mayWriteParts i := by cases i <;> simp_all [mayWriteParts]
  exact exec_same h hp

/-- Settles O47: the table lists the stack for `2nnn` alone, and `SP` for `2nnn` and `00EE`. -/
theorem onlyCallAndReturnUseTheStack : Obligations.OnlyCallAndReturnUseTheStack := by
  intro i s t h hcall
  have hstack : Part.stack ∉ mayWriteParts i := by cases i <;> simp_all [mayWriteParts]
  refine ⟨exec_same h hstack, fun hret => ?_⟩
  have hsp : Part.sp ∉ mayWriteParts i := by cases i <;> simp_all [mayWriteParts]
  exact exec_same h hsp

/-- Settles O48: the table lists each timer for its own `Fx15` or `Fx18` alone. -/
theorem noInstructionCountsTheTimers : Obligations.NoInstructionCountsTheTimers := by
  intro i s t h
  refine ⟨fun hdt => ?_, fun hst => ?_⟩
  · have hp : Part.delay ∉ mayWriteParts i := by cases i <;> simp_all [mayWriteParts]
    exact exec_same h hp
  · have hp : Part.sound ∉ mayWriteParts i := by cases i <;> simp_all [mayWriteParts]
    exact exec_same h hp

/-- Settles O49: the table lists `WAIT` and `WREG` for `Fx0A` alone. -/
theorem onlyWaitKeyChangesTheWaitState : Obligations.OnlyWaitKeyChangesTheWaitState := by
  intro i s t h hwait
  have hw : Part.wait ∉ mayWriteParts i := by cases i <;> simp_all [mayWriteParts]
  have hr : Part.wreg ∉ mayWriteParts i := by cases i <;> simp_all [mayWriteParts]
  exact ⟨exec_same h hw, exec_same h hr⟩

/-- Settles O50: the table lists `I` for the five instructions alone. -/
theorem onlyFiveInstructionsWriteI : Obligations.OnlyFiveInstructionsWriteI := by
  intro i s t h hldI haddI hldF hstore hload
  have hp : Part.index ∉ mayWriteParts i := by cases i <;> simp_all [mayWriteParts]
  exact exec_same h hp

/-- `Fx65` reaches VF only when `x` is VF. -/
theorem vf_mem_regsUpTo_iff {x : RegIdx} : vf ∈ regsUpTo x ↔ x = vf := by
  have hx := x.isLt
  rw [mem_regsUpTo, ← BitVec.toNat_inj]
  simp
  omega

/-- Settles O51: VF is in the table for the flag producers and for a destination that is VF. -/
theorem onlyFlagProducersWriteVf : Obligations.OnlyFlagProducersWriteVf := by
  intro i s t h
  intros
  have hr : vf ∉ mayWriteRegs i := by
    cases i <;> simp_all [mayWriteRegs, vf_mem_regsUpTo_iff, @eq_comm _ vf]
  exact (exec_changesOnly h).1 vf hr

/-- Settles O54: the table lists the outputs for the unmatched word alone. -/
theorem onlyUnmatchedWordsAreReported : Obligations.OnlyUnmatchedWordsAreReported := by
  intro i s t h hunimpl
  have hp : Part.outputs ∉ mayWriteParts i := by cases i <;> simp_all [mayWriteParts]
  exact exec_same h hp

end Sys2Proof.Machine
end

section
/-! PROOFS. The statements on jumps, calls and returns (41_control.md), and the rules of the whole machine on fault entry,
completion and the ordinary advance (40_cycle.md, 60_exceptions.md). `2nnn` and `00EE` are the only instructions that branch:
each has one lemma per range of `SP`. -/

namespace Sys2Proof.Machine

/-! ### Jumps (R121, R127) -/

/-- An immediate address is written as the number it is (R83). -/
@[simp] theorem toNat_addrWord (nnn : Addr) : (addrWord nnn).toNat = nnn.toNat := by
  have hlt := nnn.isLt
  rw [addrWord, BitVec.toNat_setWidth]
  omega

/-- A byte is added as the number it is (R127, R171). -/
@[simp] theorem toNat_byteWord (b : Byte) : (byteWord b).toNat = b.toNat := by
  have hlt := b.isLt
  rw [byteWord, BitVec.toNat_setWidth]
  omega

/-- `1nnn` is one write of `PC` (R121). -/
theorem exec_jp (nnn : Addr) (s : State) : exec (.jp nnn) s = .next (s.setPc (addrWord nnn)) := rfl

/-- `Bnnn` is one write of `PC` (R127). -/
theorem exec_jpV0 (nnn : Addr) (s : State) :
    exec (.jpV0 nnn) s = .next (s.setPc (byteWord (s.readV 0#4) + addrWord nnn)) := rfl

/-- Settles O18: both jumps are one write of `PC`, of a sum of zero-extended operands. -/
theorem jumpsLoadPc : Obligations.JumpsLoadPc := by
  intro nnn s
  refine ⟨rfl, rfl, ⟨_, exec_jp nnn s, ?_, s.changesOnly_setPc _⟩, ⟨_, exec_jpV0 nnn s, ?_, s.changesOnly_setPc _⟩⟩
  · rw [State.setPc_pc, toNat_addrWord]
  · rw [State.setPc_pc, BitVec.toNat_add, toNat_byteWord, toNat_addrWord]

/-! ### Call (R122, R231) -/

/-- With room on the stack `2nnn` pushes its own address and jumps (R122). -/
theorem exec_call_of_lt (nnn : Addr) {s : State} (h : s.sp.toNat < 16) :
    exec (.call nnn) s = .next ((s.push s.pc).setPc (addrWord nnn)) := by
  have hne : s.sp ≠ 16#8 := fun e => by simp [e] at h
  rw [exec, execCall, if_neg hne, if_pos h]

/-- On a full stack `2nnn` raises StackOverflow (R231). -/
theorem exec_call_of_full (nnn : Addr) {s : State} (h : s.sp.toNat = 16) :
    exec (.call nnn) s = .next (s.raiseFault .stackOverflow) :=
  if_pos (BitVec.eq_of_toNat_eq h)

/-- Above a full stack `2nnn` stops (log entry 8). -/
theorem exec_call_of_gt (nnn : Addr) {s : State} (h : 16 < s.sp.toNat) :
    exec (.call nnn) s = .fault .stackPointerAbove16 := by
  have hne : s.sp ≠ 16#8 := fun e => by simp [e] at h
  rw [exec, execCall, if_neg hne, if_neg (by omega)]

/-- A push with room counts `SP` up by one (R25). -/
theorem State.toNat_push_sp {s : State} (h : s.sp.toNat < 16) (a : Word) : (s.push a).sp.toNat = s.sp.toNat + 1 := by
  rw [State.push, State.setSp_sp, BitVec.toNat_add, BitVec.toNat_ofNat]
  omega

/-- A push with room writes the entry that `SP` names, and no other (R24). -/
theorem State.push_stack_getElem? {s : State} (h : s.sp.toNat < 16) (a : Word) (k : Nat) :
    (s.push a).stack[k]? = if k = s.sp.toNat then some a else s.stack[k]? := by
  simp only [State.push, State.setSp_stack, State.setStack_stack, Vector.getElem?_setIfInBounds, h, if_true, @eq_comm _ k]

/-- Settles O19: the two cases of `SP` up to 16. -/
theorem callPushesItsOwnAddress : Obligations.CallPushesItsOwnAddress := by
  intro nnn s
  refine ⟨rfl, fun h => ?room, fun h => ?full⟩
  case room =>
    exact ⟨_, exec_call_of_lt nnn h, toNat_addrWord nnn, State.toNat_push_sp h s.pc, State.push_stack_getElem? h _,
      (s.changesOnly_push _).trans (State.changesOnly_setPc _ _)⟩
  case full => exact ⟨_, exec_call_of_full nnn h, rfl, rfl, s.changesOnly_setFault _⟩

/-! ### Return (R120, R232) -/

/-- The index of the entry that a return reads (R120). -/
theorem toNat_sp_sub_one {sp : Byte} (h : 0 < sp.toNat) : (sp - 1#8).toNat = sp.toNat - 1 := by
  have hlt := sp.isLt
  rw [BitVec.toNat_sub, BitVec.toNat_ofNat]
  omega

/-- With an entry on the stack `00EE` pops it and ends past the call (R120, R103). -/
theorem exec_ret_of_pos {s : State} (h0 : 0 < s.sp.toNat) (h16 : s.sp.toNat ≤ 16) :
    exec .ret s = .next ((s.setSp (s.sp - 1#8)).setPc s.stack[s.sp.toNat - 1]).advance := by
  have hne : s.sp ≠ 0#8 := fun e => by simp [e] at h0
  have htop : s.top = some s.stack[s.sp.toNat - 1] := by
    rw [State.top, toNat_sp_sub_one h0]
    exact Vector.getElem?_eq_getElem _
  rw [exec, execRet, if_neg hne, htop]

/-- On an empty stack `00EE` raises StackUnderflow (R232). -/
theorem exec_ret_of_empty {s : State} (h : s.sp.toNat = 0) : exec .ret s = .next (s.raiseFault .stackUnderflow) :=
  if_pos (BitVec.eq_of_toNat_eq h)

/-- Above a full stack `00EE` stops (log entry 8). -/
theorem exec_ret_of_gt {s : State} (h : 16 < s.sp.toNat) : exec .ret s = .fault .stackPointerAbove16 := by
  have hne : s.sp ≠ 0#8 := fun e => by simp [e] at h
  have htop : s.top = none := by
    rw [State.top, toNat_sp_sub_one (by omega)]
    exact Vector.getElem?_eq_none (by omega)
  rw [exec, execRet, if_neg hne, htop]

/-- Settles O20: the two cases of `SP` up to 16. -/
theorem returnGoesPastTheCall : Obligations.ReturnGoesPastTheCall := by
  intro s
  refine ⟨rfl, fun h0 h16 => ?entry, fun h => ?empty⟩
  case entry =>
    exact ⟨_, exec_ret_of_pos h0 h16, toNat_sp_sub_one h0, rfl,
      ((s.changesOnly_setSp _).trans (State.changesOnly_setPc _ _)).advance⟩
  case empty => exact ⟨_, exec_ret_of_empty h, rfl, rfl, s.changesOnly_setFault _⟩

/-- Settles O21: with `SP` above 16 neither test of `SP` holds and `STACK[SP − 1]` is no entry. -/
theorem stackPointerAbove16Stops : Obligations.StackPointerAbove16Stops :=
  fun nnn _ h => ⟨exec_call_of_gt nnn h, exec_ret_of_gt h⟩

/-- Settles O22: the entry that the return reads is the one that the call wrote. -/
theorem returnUndoesCall : Obligations.ReturnUndoesCall := by
  intro nnn s t u hsp hcall hstack husp
  cases (exec_call_of_lt nnn hsp).symm.trans hcall
  have hu : u.sp.toNat = s.sp.toNat + 1 := by rw [husp]; exact State.toNat_push_sp hsp s.pc
  refine ⟨_, exec_ret_of_pos (by omega) (by omega), ?pc, ?sp⟩
  case pc =>
    have hentry : u.stack[u.sp.toNat - 1]? = some s.pc := by
      rw [hstack, hu]
      exact (State.push_stack_getElem? hsp s.pc _).trans (if_pos rfl)
    have hget : u.stack[u.sp.toNat - 1] = s.pc := Option.some.inj ((Vector.getElem?_eq_getElem _).symm.trans hentry)
    rw [State.advance_pc, State.setPc_pc, hget]
  case sp =>
    apply BitVec.eq_of_toNat_eq
    rw [State.advance_sp, State.setPc_sp, State.setSp_sp, toNat_sp_sub_one (by omega)]
    omega

/-! ### Fault entry, completion and the ordinary advance -/

/-- Settles O10: the table lists `FAULT` for `2nnn` and `00EE` alone, and each writes it only where it raises. -/
theorem faultEntryChangesOnlyTheLatch : Obligations.FaultEntryChangesOnlyTheLatch := by
  intro i s t h hne
  have hp : Part.fault ∈ mayWriteParts i := not_not.mp fun hp => hne (exec_same h hp)
  cases i
  case call nnn =>
    obtain ⟨hsp, rfl⟩ | ⟨-, rfl⟩ := execCall_cases h
    · exact ⟨rfl, .inl ⟨nnn, rfl, hsp, rfl⟩⟩
    · exact absurd rfl hne
  case ret =>
    obtain ⟨hsp, rfl⟩ | ⟨-, a, -, rfl⟩ := execRet_cases h
    · exact ⟨rfl, .inr ⟨rfl, hsp, rfl⟩⟩
    · exact absurd rfl hne
  all_goals simp [mayWriteParts] at hp

/-- Settles O56: every meaning but those of `2nnn` and `00EE` is a next state by definition, and these two are for `SP` up to
16. -/
theorem everyInstructionCompletes : Obligations.EveryInstructionCompletes := by
  intro i s hsp
  cases i
  case call nnn =>
    obtain hlt | hfull := Nat.lt_or_eq_of_le hsp
    · exact ⟨_, exec_call_of_lt nnn hlt⟩
    · exact ⟨_, exec_call_of_full nnn hfull⟩
  case ret =>
    obtain hempty | hpos := Nat.eq_zero_or_pos s.sp.toNat
    · exact ⟨_, exec_ret_of_empty hempty⟩
    · exact ⟨_, exec_ret_of_pos hpos hsp⟩
  all_goals exact ⟨_, rfl⟩

/-- Settles O55: every other meaning ends in the ordinary advance of a state with the old `PC`. -/
theorem ordinaryInstructionsAdvanceByTwo : Obligations.OrdinaryInstructionsAdvanceByTwo := by
  intro i s t h hjp hcall hjpV0 hret hwait hseByte hsneByte hseReg hsneReg hskp hsknp
  have hpc : t.pc = s.pc + 2#16 := by
    cases i
    case jp nnn => exact absurd rfl (hjp nnn)
    case call nnn => exact absurd rfl (hcall nnn)
    case jpV0 nnn => exact absurd rfl (hjpV0 nnn)
    case ret => exact absurd rfl hret
    case waitKey x => exact absurd rfl (hwait x)
    case seByte x kk => exact absurd rfl (hseByte x kk)
    case sneByte x kk => exact absurd rfl (hsneByte x kk)
    case seReg x y => exact absurd rfl (hseReg x y)
    case sneReg x y => exact absurd rfl (hsneReg x y)
    case skp x => exact absurd rfl (hskp x)
    case sknp x => exact absurd rfl (hsknp x)
    all_goals cases h; simp [State.clearDisplay]
  rw [hpc, BitVec.toNat_add, BitVec.toNat_ofNat]

end Sys2Proof.Machine
end

section
/-! PROOFS. The invariant of 10_state.md R37: every operation of the host and every instruction keeps it, and from a state
that meets it only a `LoadRom` can be refused. -/

namespace Sys2Proof.Machine

/-! ### Every instruction keeps the invariant -/

@[simp] theorem State.receiveKey_mem (s : State) (x : RegIdx) (answer : Option Key) :
    (s.receiveKey x answer).mem = s.mem := by
  cases answer <;> rfl

@[simp] theorem State.receiveKey_font (s : State) (x : RegIdx) (answer : Option Key) :
    (s.receiveKey x answer).font = s.font := by
  cases answer <;> rfl

/-- Memory stays canonical: the two stores keep its form, and no other instruction touches the list. -/
theorem exec_memWf {i : Instr} {s t : State} (h : exec i s = .next t) (hs : s.memWf) : t.memWf := by
  cases i
  case ret => obtain ⟨-, rfl⟩ | ⟨-, a, -, rfl⟩ := execRet_cases h <;> exact hs
  case call nnn => obtain ⟨-, rfl⟩ | ⟨-, rfl⟩ := execCall_cases h <;> exact hs
  all_goals cases h
  case ldB => exact State.memWf_memWriteList hs _ _
  case storeRegs => exact State.memWf_storeV hs _ _
  all_goals refine State.memWf_of_eq ?_ ?_ hs
  all_goals simp [State.finishV, State.clearDisplay]

/-- `SP` stays at most 16: a call pushes only where there is room (R25). -/
theorem exec_sp_le {i : Instr} {s t : State} (h : exec i s = .next t) (hs : s.sp.toNat ≤ 16) : t.sp.toNat ≤ 16 := by
  by_cases hp : Part.sp ∈ mayWriteParts i
  · cases i
    case call nnn =>
      obtain ⟨-, rfl⟩ | ⟨hlt, rfl⟩ := execCall_cases h
      · exact hs
      · rw [State.setPc_sp, State.toNat_push_sp hlt]
        exact hlt
    case ret =>
      obtain ⟨-, rfl⟩ | ⟨hne, a, -, rfl⟩ := execRet_cases h
      · exact hs
      · have hpos : 0 < s.sp.toNat := Nat.pos_of_ne_zero fun e => hne (BitVec.eq_of_toNat_eq e)
        rw [State.advance_sp, State.setPc_sp, State.setSp_sp, toNat_sp_sub_one hpos]
        omega
    all_goals simp [mayWriteParts] at hp
  · have hsp : t.sp = s.sp := exec_same h hp
    rwa [hsp]

/-- `FAULT` stays 0, 1 or 2: an instruction that changes it writes 1 or 2 (R29). -/
theorem exec_fault_ne {i : Instr} {s t : State} (h : exec i s = .next t) (hs : s.fault ≠ 3#2) : t.fault ≠ 3#2 := by
  by_cases heq : t.fault = s.fault
  · rwa [heq]
  · obtain ⟨-, ⟨_, -, -, hf⟩ | ⟨-, -, hf⟩⟩ := faultEntryChangesOnlyTheLatch i s t h heq <;> rw [hf] <;> decide

/-- What the instruction fetched at `PC` does keeps the invariant, on a core that is not faulted and is no longer loadable.
The one instruction that can block the CPU is `Fx0A`, and it stays under `PC` when it does. -/
theorem exec_keeps_inv {s t : State} (hs : s.Inv) (hfault : s.fault = 0#2) (hload : s.loadable = false)
    (h : exec (decodeWord s.fetch) s = .next t) : t.Inv := by
  refine ⟨exec_sp_le h hs.sp_le, exec_fault_ne h hs.fault_ne, exec_memWf h hs.mem_wf, fun hwait => ?_⟩
  by_cases hi : ∃ x, decodeWord s.fetch = .waitKey x
  · obtain ⟨x, hx⟩ := hi
    rw [hx] at h
    cases h
    cases hanswer : s.env.keyReleased.1 with
    | none => exact ⟨hfault, hload, hx⟩
    | some k =>
      rw [hanswer] at hwait
      cases hwait
  · have hw : t.wait = s.wait := (onlyWaitKeyChangesTheWaitState _ s t h fun x hx => hi ⟨x, hx⟩).1
    obtain ⟨-, -, hdec⟩ := hs.wait_ok (hw ▸ hwait)
    exact absurd ⟨_, hdec⟩ hi

/-! ### Every operation of the host keeps the invariant -/

theorem State.Inv.withOps {s : State} (hs : s.Inv) (ops : List HostOp) : (s.withOps ops).Inv :=
  ⟨hs.sp_le, hs.fault_ne, hs.mem_wf, hs.wait_ok⟩

theorem State.Inv.setLoadable_false {s : State} (hs : s.Inv) : (s.setLoadable false).Inv :=
  ⟨hs.sp_le, hs.fault_ne, hs.mem_wf, fun hw => ⟨(hs.wait_ok hw).1, rfl, (hs.wait_ok hw).2.2⟩⟩

theorem State.Inv.freeTicks {s : State} (hs : s.Inv) : s.freeTicks.Inv := by
  rw [State.freeTicks, State.ticks_eq]
  exact ⟨hs.sp_le, hs.fault_ne, hs.mem_wf, hs.wait_ok⟩

theorem State.Inv.tick {s : State} (hs : s.Inv) : s.tick.Inv := by
  by_cases hf : s.fault = 0#2
  · rw [State.tick_running hf]
    exact ⟨hs.sp_le, hs.fault_ne, hs.mem_wf, hs.wait_ok⟩
  · rwa [State.tick_faulted hf]

theorem State.Inv.cycle {s t : State} (hs : s.Inv) (h : s.cycle = .next t) : t.Inv := by
  by_cases hf : s.fault = 0#2
  · rw [State.cycle_running hf] at h
    exact exec_keeps_inv hs.setLoadable_false hf rfl h
  · rw [State.cycle_faulted hf] at h
    cases h
    exact hs

/-- After `Reset` nothing is listed in memory and nothing is blocked, whatever the font. -/
theorem State.hostReset_inv (s : State) : s.hostReset.Inv :=
  ⟨Nat.zero_le 16, nofun, Memory.wf_nil s.font, fun hw => by cases hw⟩

/-- A `LoadRom` is permitted only while the CPU is not blocked. -/
theorem State.Inv.loadRom {s t : State} (hs : s.Inv) {bytes : List Byte} (h : s.loadRom bytes = .next t) : t.Inv := by
  obtain ⟨-, hr⟩ | ⟨-, -, hr⟩ | ⟨hload, -, hr⟩ := s.loadRom_cases bytes
  · cases hr.symm.trans h
  · cases hr.symm.trans h
  · cases hr.symm.trans h
    refine ⟨?_, ?_, State.memWf_memWriteList hs.mem_wf _ _, fun hw => ?_⟩
    · simpa using hs.sp_le
    · simpa using hs.fault_ne
    · have hw' : s.wait = true := by simpa using hw
      obtain ⟨-, hunload, -⟩ := hs.wait_ok hw'
      cases hload.symm.trans hunload

theorem State.Inv.perform {s t : State} (hs : s.Inv) {op : HostOp} (h : s.perform op = .next t) : t.Inv := by
  cases op with
  | cycle => exact hs.cycle h
  | tick => cases h; exact hs.tick
  | getPixel row col => cases h; exact ⟨hs.sp_le, hs.fault_ne, hs.mem_wf, hs.wait_ok⟩
  | reset => cases h; exact s.hostReset_inv
  | loadRom bytes => exact hs.loadRom h

/-- Settles O58: a step is one operation of the host, or free `Tick`s and a `Cycle`, and each of these keeps the invariant. -/
theorem stepKeepsTheInvariant : Obligations.StepKeepsTheInvariant := by
  intro s t hs h
  cases hops : s.env.ops with
  | nil =>
    rw [step_nil hops] at h
    exact hs.freeTicks.cycle h
  | cons op ops =>
    rw [step_cons hops] at h
    exact (hs.withOps ops).perform h

/-- Settles O59: the state after reset is a `Reset` of itself. -/
theorem resetMeetsTheInvariant : Obligations.ResetMeetsTheInvariant := State.reset.hostReset_inv

/-! ### Only a `LoadRom` can be refused -/

/-- With `SP` at most 16 a `Cycle` answers a next state (R109). -/
theorem State.exists_cycle_eq_next {s : State} (hsp : s.sp.toNat ≤ 16) : ∃ t, s.cycle = .next t := by
  by_cases hf : s.fault = 0#2
  · rw [State.cycle_running hf]
    exact everyInstructionCompletes _ _ hsp
  · exact ⟨s, State.cycle_faulted hf⟩

/-- Settles O60: of the host's operations only `Cycle` and `LoadRom` are not next states by definition, and every
instruction completes. -/
theorem onlyLoadRomCanBeRefused : Obligations.OnlyLoadRomCanBeRefused := by
  intro s hs hload
  cases hops : s.env.ops with
  | nil =>
    rw [step_nil hops]
    exact State.exists_cycle_eq_next hs.freeTicks.sp_le
  | cons op ops =>
    rw [step_cons hops]
    cases op with
    | cycle => exact State.exists_cycle_eq_next (hs.withOps ops).sp_le
    | loadRom bytes => exact absurd hops (hload bytes ops)
    | tick | getPixel | reset => exact ⟨_, rfl⟩

end Sys2Proof.Machine
end

section
/-! PROOFS. The statements on logic, subtraction, shifts and random bytes (42_alu.md R143 to R151). The order of the writes
decides what VF holds where `x` or `y` is 0xF (R153): each meaning is first said as its writes in that order, and the flag as
a number. The frames are read off the table of `exec_changesOnly`. -/

namespace Sys2Proof.Machine

/-! ### Logic (R143 to R145) -/

theorem exec_orReg (x y : RegIdx) (s : State) : exec (.orReg x y) s = .next (s.finishV x (s.readV x ||| s.readV y)) := rfl

theorem exec_andReg (x y : RegIdx) (s : State) : exec (.andReg x y) s = .next (s.finishV x (s.readV x &&& s.readV y)) := rfl

theorem exec_xorReg (x y : RegIdx) (s : State) : exec (.xorReg x y) s = .next (s.finishV x (s.readV x ^^^ s.readV y)) := rfl

/-- Settles O25: each of the three is a single `finishV` of the bitwise result. -/
theorem logicWritesOneRegisterAndNoFlag : Obligations.LogicWritesOneRegisterAndNoFlag := by
  intro x y s
  refine ⟨rfl, rfl, rfl, ?or, ?and, ?xor⟩
  case or =>
    refine ⟨_, exec_orReg x y s, s.finishV_pc x _, s.changesOnly_finishV x _, fun k _ => ?_⟩
    rw [State.readV_finishV_self, BitVec.getLsbD_or]
  case and =>
    refine ⟨_, exec_andReg x y s, s.finishV_pc x _, s.changesOnly_finishV x _, fun k _ => ?_⟩
    rw [State.readV_finishV_self, BitVec.getLsbD_and]
  case xor =>
    refine ⟨_, exec_xorReg x y s, s.finishV_pc x _, s.changesOnly_finishV x _, fun k _ => ?_⟩
    rw [State.readV_finishV_self, BitVec.getLsbD_xor]

/-! ### Subtraction (R147, R149) -/

/-- A difference of bytes wraps modulo 256. -/
theorem toNat_byte_sub (a b : Byte) : (a - b).toNat = (a.toNat + 256 - b.toNat) % 256 := by
  have hlt := b.isLt
  rw [BitVec.toNat_sub]
  congr 1
  omega

theorem toNat_notBorrowFlag (a b : Byte) : (notBorrowFlag a b).toNat = if b.toNat > a.toNat then 0 else 1 := by
  unfold notBorrowFlag
  split <;> rfl

/-- The not-borrow flag of `V[a] − V[b]` in VF, then `V[d] <- V[a] − V[b]` with both read after that write, then the
advance: `8xy5` and `8xy7`. -/
def State.subtract (s : State) (d a b : RegIdx) : State :=
  (s.setV vf (notBorrowFlag (s.readV a) (s.readV b))).finishV d
    ((s.setV vf (notBorrowFlag (s.readV a) (s.readV b))).readV a -
      (s.setV vf (notBorrowFlag (s.readV a) (s.readV b))).readV b)

/-- `8xy5` subtracts `V[y]` from `V[x]` (R147). -/
theorem exec_subReg (x y : RegIdx) (s : State) : exec (.subReg x y) s = .next (s.subtract x x y) := rfl

/-- `8xy7` subtracts `V[x]` from `V[y]` (R149). -/
theorem exec_subnReg (x y : RegIdx) (s : State) : exec (.subnReg x y) s = .next (s.subtract x y x) := rfl

/-- The flag stays in VF unless the difference goes there. -/
theorem State.readV_subtract_vf (s : State) {d : RegIdx} (a b : RegIdx) (hd : d ≠ vf) :
    (s.subtract d a b).readV vf = notBorrowFlag (s.readV a) (s.readV b) := by
  simp [State.subtract, hd.symm]

/-- The difference, by which operands are VF and so read as the flag. -/
theorem State.toNat_readV_subtract (s : State) (d a b : RegIdx) {f : Nat}
    (hf : f = if (s.readV b).toNat > (s.readV a).toNat then 0 else 1) :
    (a ≠ vf → b ≠ vf →
      ((s.subtract d a b).readV d).toNat = ((s.readV a).toNat + 256 - (s.readV b).toNat) % 256) ∧
    (a = vf → b ≠ vf → ((s.subtract d a b).readV d).toNat = (f + 256 - (s.readV b).toNat) % 256) ∧
    (a ≠ vf → b = vf → ((s.subtract d a b).readV d).toNat = ((s.readV a).toNat + 256 - f) % 256) ∧
    (a = vf → b = vf → ((s.subtract d a b).readV d).toNat = 0) := by
  rw [hf, ← toNat_notBorrowFlag, State.subtract, State.readV_finishV_self, toNat_byte_sub]
  refine ⟨fun ha hb => ?_, fun ha hb => ?_, fun ha hb => ?_, fun ha hb => ?_⟩
  all_goals simp [ha, hb]

/-- Settles O27: an operand that is VF reads as the flag, every other one as before. -/
theorem subtractSetsNotBorrowFirst : Obligations.SubtractSetsNotBorrowFirst := by
  intro x y s
  have hexec := exec_subReg x y s
  refine ⟨rfl, _, hexec, rfl, exec_changesOnly hexec, fun f hf => ?_⟩
  obtain ⟨hdiff, hfromFlag, hofFlag, hself⟩ := s.toNat_readV_subtract x x y hf
  refine ⟨fun hx => ?flag, hdiff, fun hx hy => ?_, hofFlag, fun hx hy => ?_⟩
  case flag => rw [s.readV_subtract_vf x y hx, toNat_notBorrowFlag, hf]
  · rw [← hfromFlag hx hy, hx]
  · rw [← hself hx hy, hx]

/-- Settles O28: as O27, with the operands of the flag and of the difference exchanged. -/
theorem reverseSubtractSetsNotBorrowFirst : Obligations.ReverseSubtractSetsNotBorrowFirst := by
  intro x y s
  have hexec := exec_subnReg x y s
  refine ⟨rfl, _, hexec, rfl, exec_changesOnly hexec, fun f hf => ?_⟩
  obtain ⟨hdiff, hfromFlag, hofFlag, hself⟩ := s.toNat_readV_subtract x y x hf
  refine ⟨fun hx => ?flag, fun hx hy => hdiff hy hx, fun hx hy => ?_, fun hx hy => hfromFlag hy hx, fun hx hy => ?_⟩
  case flag => rw [s.readV_subtract_vf y x hx, toNat_notBorrowFlag, hf]
  · rw [← hofFlag hy hx, hx]
  · rw [← hself hy hx, hx]

/-! ### Shifts (R148, R150) -/

theorem toNat_flagByte (b : Bool) : (flagByte b).toNat = b.toNat := by
  cases b <;> rfl

theorem toNat_lowBitFlag (a : Byte) : (lowBitFlag a).toNat = a.toNat % 2 := by
  rw [lowBitFlag, toNat_flagByte, BitVec.getLsbD, Nat.toNat_testBit, pow_zero, Nat.div_one]

theorem toNat_highBitFlag (a : Byte) : (highBitFlag a).toNat = a.toNat / 128 := by
  have hlt := a.isLt
  rw [highBitFlag, toNat_flagByte, BitVec.getLsbD, Nat.toNat_testBit]
  omega

theorem toNat_byte_shiftRight_one (a : Byte) : (a >>> 1).toNat = a.toNat / 2 := by
  rw [BitVec.toNat_ushiftRight, Nat.shiftRight_one]

theorem toNat_byte_shiftLeft_one (a : Byte) : (a <<< 1).toNat = 2 * a.toNat % 256 := by
  rw [BitVec.toNat_shiftLeft, Nat.shiftLeft_eq]
  omega

/-- `8xy6` copies, writes the flag, and shifts the register as it then is (R148). -/
theorem exec_shrReg (x y : RegIdx) (s : State) {u : State}
    (hu : u = (s.setV x (s.readV y)).setV vf (lowBitFlag (s.readV y))) :
    exec (.shrReg x y) s = .next (u.finishV x (u.readV x >>> 1)) := by
  simp [hu, exec, execShrReg]

/-- `8xyE` copies, writes the flag, and shifts the register as it then is (R150). -/
theorem exec_shlReg (x y : RegIdx) (s : State) {u : State}
    (hu : u = (s.setV x (s.readV y)).setV vf (highBitFlag (s.readV y))) :
    exec (.shlReg x y) s = .next (u.finishV x (u.readV x <<< 1)) := by
  simp [hu, exec, execShlReg]

/-- Settles O29: the shifted register is the copy, or, with `x = 0xF`, the flag, whose half is 0. -/
theorem shiftRightHalvesTheCopiedOperand : Obligations.ShiftRightHalvesTheCopiedOperand := by
  intro x y s
  have hexec := exec_shrReg x y s rfl
  refine ⟨rfl, _, hexec, rfl, exec_changesOnly hexec, fun hx => ⟨?result, ?flag⟩, fun hx => ?self⟩
  case result => rw [State.readV_finishV_self, toNat_byte_shiftRight_one]; simp [hx]
  case flag => simp [hx.symm, toNat_lowBitFlag]
  case self =>
    apply BitVec.eq_of_toNat_eq
    rw [← hx, State.readV_finishV_self, toNat_byte_shiftRight_one]
    simp [hx, toNat_lowBitFlag]

/-- Settles O30: the shifted register is the copy, or, with `x = 0xF`, the flag. -/
theorem shiftLeftDoublesTheCopiedOperand : Obligations.ShiftLeftDoublesTheCopiedOperand := by
  intro x y s
  have hexec := exec_shlReg x y s rfl
  refine ⟨rfl, _, hexec, rfl, exec_changesOnly hexec, fun hx => ⟨?result, ?flag⟩, fun hx => ?self⟩
  case result => rw [State.readV_finishV_self, toNat_byte_shiftLeft_one]; simp [hx]
  case flag => simp [hx.symm, toNat_highBitFlag]
  case self =>
    have hlt := (s.readV y).isLt
    rw [← hx, State.readV_finishV_self, toNat_byte_shiftLeft_one]
    simp [hx, toNat_highBitFlag]
    omega

/-! ### Random bytes (R151) -/

/-- `Cxkk` asks once and writes the answer under the mask `kk` (R151). -/
theorem exec_rnd (x : RegIdx) (kk : Byte) (s : State) :
    exec (.rnd x kk) s = .next ((s.setEnv s.env.random8.2).finishV x (s.env.random8.1 &&& kk)) := rfl

theorem Env.random8_listed {e : Env} {r : Byte} {rs : List Byte} (h : e.random = r :: rs) :
    e.random8 = (r, { e with random := rs }) := by
  rw [Env.random8, h]

theorem Env.random8_free {e : Env} (h : e.random = []) :
    e.random8 = (Config.randomByte e.drawn, { e with drawn := e.drawn + 1 }) := by
  simp [Env.random8, Env.draw, h]

/-- Settles O31: the two cases of the port's answer. -/
theorem randomIsOneDrawAndByte : Obligations.RandomIsOneDrawAndByte := by
  intro x kk s
  have hexec := exec_rnd x kk s
  refine ⟨rfl, _, hexec, rfl, exec_changesOnly hexec, ?mask, fun r rs hr => ⟨?_, ?_⟩, fun hr => ⟨?_, ?_⟩⟩
  case mask =>
    rw [State.readV_finishV_self, BitVec.and_assoc, BitVec.and_not_self]
    exact BitVec.and_zero
  · rw [State.readV_finishV_self, Env.random8_listed hr]
  · exact congrArg Prod.snd (Env.random8_listed hr)
  · rw [State.readV_finishV_self, Env.random8_free hr]
  · exact congrArg Prod.snd (Env.random8_free hr)

end Sys2Proof.Machine
end

section
/-! PROOFS. The statements on the index register and memory transfer (43_index_memory.md). What the transfer loops do is said
in Laws/Ops.lean and Laws/Loops.lean; here each instruction is its loop, the write of `I` and the advance. -/

namespace Sys2Proof.Machine

/-! ### Writes of `I` (R170 to R172) -/

theorem exec_ldI (nnn : Addr) (s : State) : exec (.ldI nnn) s = .next (s.setI (addrWord nnn)).advance := rfl

theorem exec_addI (x : RegIdx) (s : State) : exec (.addI x) s = .next (s.setI (s.i + byteWord (s.readV x))).advance := rfl

theorem exec_ldF (x : RegIdx) (s : State) : exec (.ldF x) s = .next (s.setI (glyphAddr (s.readV x))).advance := rfl

/-- The address of a glyph fits in `I` for every byte (R172). -/
theorem toNat_glyphAddr (b : Byte) : (glyphAddr b).toNat = 0x050 + 5 * b.toNat := by
  have hlt := b.isLt
  rw [glyphAddr, BitVec.toNat_ofNat]
  exact Nat.mod_eq_of_lt (by simp; omega)

/-- Settles O32: each of the three is one write of `I` and the ordinary advance. -/
theorem indexRegisterWrites : Obligations.IndexRegisterWrites := by
  intro nnn x s
  refine ⟨rfl, rfl, rfl, ⟨_, exec_ldI nnn s, ?_, rfl, (s.changesOnly_setI _).advance⟩,
    ⟨_, exec_addI x s, ?_, rfl, (s.changesOnly_setI _).advance⟩,
    ⟨_, exec_ldF x s, ?_, rfl, (s.changesOnly_setI _).advance⟩⟩
  · rw [State.advance_i, State.setI_i, toNat_addrWord]
  · rw [State.advance_i, State.setI_i, BitVec.toNat_add, toNat_byteWord]
  · rw [State.advance_i, State.setI_i, toNat_glyphAddr]

/-! ### Decimal digits (R173) -/

theorem toNat_hundreds (b : Byte) : (hundreds b).toNat = b.toNat / 100 := by
  have hlt := b.isLt
  rw [hundreds, BitVec.toNat_ofNat]
  omega

theorem toNat_tens (b : Byte) : (tens b).toNat = b.toNat / 10 % 10 := by
  rw [tens, BitVec.toNat_ofNat]
  omega

theorem toNat_ones (b : Byte) : (ones b).toNat = b.toNat % 10 := by
  rw [ones, BitVec.toNat_ofNat]
  omega

/-- `Fx33` stores three bytes and advances (R173). -/
theorem exec_ldB (x : RegIdx) (s : State) :
    exec (.ldB x) s = .next (s.memWriteList (s.dataAddr 0)
      [hundreds (s.readV x), tens (s.readV x), ones (s.readV x)]).advance := rfl

/-- Settles O33: the three stored bytes read back, and every other byte reads as before. -/
theorem decimalDigitsAreStored : Obligations.DecimalDigitsAreStored := by
  intro x s
  have hexec := exec_ldB x s
  have hread := s.memRead_memWriteList (s.dataAddr 0) [hundreds (s.readV x), tens (s.readV x), ones (s.readV x)] (by simp)
  refine ⟨rfl, _, hexec, ?pc, exec_changesOnly hexec, ?hundreds, ?tens, ?ones, fun a ha => ?other⟩
  case pc => simp
  case hundreds => exact (congrArg BitVec.toNat (hread 0 (by simp))).trans (toNat_hundreds _)
  case tens => exact (congrArg BitVec.toNat (hread 1 (by simp))).trans (toNat_tens _)
  case ones => exact (congrArg BitVec.toNat (hread 2 (by simp))).trans (toNat_ones _)
  case other => exact s.memRead_memWriteList_of_not _ _ _ ha

/-! ### Register transfers (R174, R175) -/

/-- `Fx55` stores `V[0]`..`V[x]`, moves `I` and advances (R174). -/
theorem exec_storeRegs (x : RegIdx) (s : State) :
    exec (.storeRegs x) s = .next ((s.storeV (s.dataAddr 0) (x.toNat + 1)).setI (s.nextI x)).advance := rfl

/-- `Fx65` loads `V[0]`..`V[x]`, moves `I` and advances (R175). -/
theorem exec_loadRegs (x : RegIdx) (s : State) :
    exec (.loadRegs x) s = .next ((s.loadV (s.dataAddr 0) (x.toNat + 1)).setI (s.nextI x)).advance := rfl

theorem State.toNat_nextI (s : State) (x : RegIdx) : (s.nextI x).toNat = (s.i.toNat + x.toNat + 1) % 65536 := by
  rw [State.nextI, BitVec.toNat_ofNat]

theorem State.nextI_eq_add (s : State) (x : RegIdx) : s.nextI x = s.i + BitVec.ofNat 16 (x.toNat + 1) := by
  apply BitVec.eq_of_toNat_eq
  rw [State.toNat_nextI, BitVec.toNat_add, BitVec.toNat_ofNat]
  omega

/-- After the store, the byte at `I + k` is `V[k]`. -/
theorem State.memRead_storeV_dataAddr (s : State) {x k : RegIdx} (hk : k.toNat ≤ x.toNat) :
    (s.storeV (s.dataAddr 0) (x.toNat + 1)).memRead (s.dataAddr k.toNat) = s.readV k := by
  have hx := x.isLt
  have hread := s.memRead_storeV (s.dataAddr 0) (x.toNat + 1) k.toNat (by omega) (by omega)
  rwa [BitVec.ofNat_toNat, BitVec.setWidth_eq] at hread

/-- After the load, `V[k]` is the byte at `I + k` for `k` up to `x`, and the old `V[k]` above. -/
theorem State.readV_loadV_dataAddr (s : State) (x k : RegIdx) :
    (s.loadV (s.dataAddr 0) (x.toNat + 1)).readV k =
      if k.toNat ≤ x.toNat then s.memRead (s.dataAddr k.toNat) else s.readV k := by
  have hx := x.isLt
  rw [State.readV_loadV _ _ _ (by omega)]
  simp only [Nat.lt_succ_iff]
  rfl

/-- Settles O34: the loop stores `V[k]` at `I + k` and leaves every other byte alone. -/
theorem registersAreStoredUpToX : Obligations.RegistersAreStoredUpToX := by
  intro x s
  have hexec := exec_storeRegs x s
  refine ⟨rfl, _, hexec, ?pc, exec_changesOnly hexec, s.toNat_nextI x, fun k hk => ?stored, fun a ha => ?other⟩
  case pc => simp
  case stored => exact s.memRead_storeV_dataAddr hk
  case other => exact s.memRead_storeV_of_not _ _ _ fun k hk => ha k (Nat.le_of_lt_succ hk)

/-- Settles O35: the loop loads `V[k]` from `I + k` and leaves every other register alone. -/
theorem registersAreLoadedUpToX : Obligations.RegistersAreLoadedUpToX := by
  intro x s
  have hexec := exec_loadRegs x s
  refine ⟨rfl, _, hexec, ?pc, s.toNat_nextI x, fun k => ?loaded, fun p hp => ?frame⟩
  case pc => simp
  case loaded => exact s.readV_loadV_dataAddr x k
  case frame => exact exec_same hexec (by simpa [mayWriteParts] using hp)

/-- Settles O36: what the load reads at `I + k` is what the store put there. -/
theorem storeThenLoadRestoresRegisters : Obligations.StoreThenLoadRestoresRegisters := by
  intro x s t u hstore hui hmem
  cases (exec_storeRegs x s).symm.trans hstore
  refine ⟨_, exec_loadRegs x u, fun k hk => ?restored, s.nextI_eq_add x, ?index⟩
  case restored =>
    have haddr : u.dataAddr k.toNat = s.dataAddr k.toNat := by rw [State.dataAddr, State.dataAddr, hui]
    calc
      _ = u.memRead (u.dataAddr k.toNat) := (u.readV_loadV_dataAddr x k).trans (if_pos hk)
      _ = _ := by rw [haddr]; exact hmem _
      _ = s.readV k := s.memRead_storeV_dataAddr hk
  case index => exact (u.nextI_eq_add x).trans (by rw [hui])

/-- Settles O37: the two bytes at the new `PC` are those stored at `I` and `I + 1`. -/
theorem storeIsSeenByTheNextFetch : Obligations.StoreIsSeenByTheNextFetch := by
  intro x s t hx haddr hstore
  cases (exec_storeRegs x s).symm.trans hstore
  have hpc : (s.pc + 2#16).toNat = (s.pc.toNat + 2) % 65536 := BitVec.toNat_add _ _
  have hhi : (s.storeV (s.dataAddr 0) (x.toNat + 1)).memRead (s.pc + 2#16).toNat = s.readV 0#4 :=
    (State.memRead_congr _ (by rw [hpc, State.dataAddr]; simp; omega)).trans (s.memRead_storeV_dataAddr (Nat.zero_le _))
  have hlo : (s.storeV (s.dataAddr 0) (x.toNat + 1)).memRead ((s.pc + 2#16).toNat + 1) = s.readV 1#4 :=
    (State.memRead_congr _ (by rw [hpc, State.dataAddr]; simp; omega)).trans (s.memRead_storeV_dataAddr hx)
  rw [State.fetch, State.advance_pc, State.setI_pc, State.storeV_pc]
  exact congrArg₂ wordOfBytes hhi hlo

end Sys2Proof.Machine
end

section
/-! PROOFS. The statements on the ports and the reports (45_input_timers.md, 40_cycle.md section 3). An instruction asks a
port once, and what follows is a function of the answer; the answer is the next one listed, else a free value. -/

namespace Sys2Proof.Machine

/-! ### What a port answers (R151, R216) -/

section
variable {e : Env}

theorem Env.keyHeld_listed {b : Byte} {answer : Bool} {answers : List Bool} (hb : b.toNat ≤ 15)
    (h : e.held = answer :: answers) : e.keyHeld b = (answer, { e with held := answers }) := by
  rw [Env.keyHeld, if_pos (by omega), Env.askHeld, h]

theorem Env.keyHeld_free {b : Byte} (hb : b.toNat ≤ 15) (h : e.held = []) :
    e.keyHeld b = (Config.keyHeld e.drawn (b.setWidth 4), { e with drawn := e.drawn + 1 }) := by
  rw [Env.keyHeld, if_pos (by omega)]
  simp [Env.askHeld, Env.draw, h]

theorem Env.keyReleased_listed {answer : Option Key} {answers : List (Option Key)} (h : e.released = answer :: answers) :
    e.keyReleased = (answer, { e with released := answers }) := by
  rw [Env.keyReleased, h]

theorem Env.keyReleased_free (h : e.released = []) :
    e.keyReleased = (Config.keyReleased e.drawn, { e with drawn := e.drawn + 1 }) := by
  simp [Env.keyReleased, Env.draw, h]

end

/-! ### Skips on a key (R210, R211) -/

/-- `Ex9E` asks once and skips when the key is held (R210). -/
theorem exec_skp (x : RegIdx) (s : State) :
    exec (.skp x) s = .next ((s.setEnv (s.env.keyHeld (s.readV x)).2).setPc
      (if (s.env.keyHeld (s.readV x)).1 = true then s.pc + 4#16 else s.pc + 2#16)) := by
  rw [exec, execSkp, State.skipIf_advance_eq]
  rfl

/-- `ExA1` asks once and skips when the key is not held (R211). -/
theorem exec_sknp (x : RegIdx) (s : State) :
    exec (.sknp x) s = .next ((s.setEnv (s.env.keyHeld (s.readV x)).2).setPc
      (if (s.env.keyHeld (s.readV x)).1 = true then s.pc + 2#16 else s.pc + 4#16)) := by
  rw [exec, execSknp, State.skipIf_advance_eq]
  cases (s.env.keyHeld (s.readV x)).1 <;> rfl

/-- Settles O42: the three cases of the question, for a key with a listed answer, a key with a free one, and no key. -/
theorem keySkipsFollowTheAnswer : Obligations.KeySkipsFollowTheAnswer := by
  intro x s
  have hskp := exec_skp x s
  have hsknp := exec_sknp x s
  refine ⟨rfl, rfl, _, _, hskp, hsknp, exec_changesOnly hskp, exec_changesOnly hsknp, rfl, fun b bs hk hb => ?listed,
    fun b hk hb he => ?free, fun hk => ?above⟩
  case listed => simp [Env.keyHeld_listed hk hb]
  case free => subst he; simp [Env.keyHeld_free hk hb]
  case above => simp [Env.keyHeld_above _ _ hk]

/-! ### Waiting for a key (R212) -/

/-- `Fx0A` asks once and acts on the answer (R212). -/
theorem exec_waitKey (x : RegIdx) (s : State) :
    exec (.waitKey x) s = .next ((s.setEnv s.env.keyReleased.2).receiveKey x s.env.keyReleased.1) := rfl

@[simp] theorem State.receiveKey_env (s : State) (x : RegIdx) (answer : Option Key) :
    (s.receiveKey x answer).env = s.env := by
  cases answer <;> rfl

/-- A key's number is written as the number it is (R212). -/
theorem toNat_keyByte (k : Key) : (keyByte k).toNat = k.toNat := by
  have hlt := k.isLt
  rw [keyByte, BitVec.toNat_setWidth]
  omega

/-- Settles O43: the answer is either a key or none. -/
theorem waitKeyBlocksUntilARelease : Obligations.WaitKeyBlocksUntilARelease := by
  intro x s
  refine ⟨rfl, _, exec_waitKey x s, fun answer => ⟨fun ks h => ?listed, fun h => ?free, fun h => ?effect⟩⟩
  case listed => simp [Env.keyReleased_listed h]
  case free => simp [Env.keyReleased_free h]
  case effect =>
    have hanswer : s.env.keyReleased.1 = answer := by
      obtain ⟨ks, hks⟩ | ⟨hnil, rfl⟩ := h
      · rw [Env.keyReleased_listed hks]
      · rw [Env.keyReleased_free hnil]
    rw [hanswer]
    refine ⟨?key, ?none⟩
    case key =>
      rintro k rfl
      exact ⟨by simp [State.receiveKey_some, toNat_keyByte], rfl, rfl,
        ((s.changesOnly_setEnv _).trans (State.changesOnly_receiveKey_some _ x k)).mono (by simp) (by simp)⟩
    case none =>
      rintro rfl
      exact ⟨rfl, rfl, rfl,
        ((s.changesOnly_setEnv _).trans (State.changesOnly_receiveKey_none _ x)).mono (by simp) (by simp)⟩

/-! ### How often a port is asked (R216) -/

/-- From `e` to `e'` at most one port was asked, and it at most once. -/
def Env.AskedAtMostOnce (e e' : Env) : Prop :=
  e' = e ∨ e' = { e with drawn := e.drawn + 1 } ∨ e' = { e with random := e.random.tail } ∨
    e' = { e with held := e.held.tail } ∨ e' = { e with released := e.released.tail }

theorem Env.askedAtMostOnce_random8 (e : Env) : e.AskedAtMostOnce e.random8.2 := by
  obtain ⟨r, rs, h, hport⟩ | ⟨-, hport⟩ := e.random8_cases
  · rw [hport]; exact .inr (.inr (.inl (by rw [h, List.tail_cons])))
  · rw [hport]; exact .inr (.inl rfl)

theorem Env.askedAtMostOnce_keyHeld (e : Env) (b : Byte) : e.AskedAtMostOnce (e.keyHeld b).2 := by
  obtain ⟨-, hport⟩ | ⟨-, a, as, h, hport⟩ | ⟨-, -, hport⟩ := e.keyHeld_cases b
  · rw [hport]; exact .inl rfl
  · rw [hport]; exact .inr (.inr (.inr (.inl (by rw [h, List.tail_cons]))))
  · rw [hport]; exact .inr (.inl rfl)

theorem Env.askedAtMostOnce_keyReleased (e : Env) : e.AskedAtMostOnce e.keyReleased.2 := by
  obtain ⟨k, ks, h, hport⟩ | ⟨-, hport⟩ := e.keyReleased_cases
  · rw [hport]; exact .inr (.inr (.inr (.inr (by rw [h, List.tail_cons]))))
  · rw [hport]; exact .inr (.inl rfl)

/-- No instruction touches the host's list, and none asks more than one question. -/
theorem exec_env {i : Instr} {s t : State} (h : exec i s = .next t) :
    t.env.ops = s.env.ops ∧ s.env.AskedAtMostOnce t.env := by
  by_cases hp : Part.env ∈ mayWriteParts i
  · cases i
    case rnd x kk =>
      cases (exec_rnd x kk s).symm.trans h
      exact ⟨s.env.random8_ops, s.env.askedAtMostOnce_random8⟩
    case skp x =>
      cases (exec_skp x s).symm.trans h
      exact ⟨s.env.keyHeld_ops _, s.env.askedAtMostOnce_keyHeld _⟩
    case sknp x =>
      cases (exec_sknp x s).symm.trans h
      exact ⟨s.env.keyHeld_ops _, s.env.askedAtMostOnce_keyHeld _⟩
    case waitKey x =>
      cases (exec_waitKey x s).symm.trans h
      rw [State.receiveKey_env]
      exact ⟨s.env.keyReleased_ops, s.env.askedAtMostOnce_keyReleased⟩
    all_goals simp [mayWriteParts] at hp
  · have henv : t.env = s.env := exec_same h hp
    exact ⟨congrArg Env.ops henv, .inl henv⟩

/-- Settles O53: the table lists the ports' record for the four instructions alone, and each asks one question. -/
theorem portsAreAskedAtMostOnce : Obligations.PortsAreAskedAtMostOnce := by
  intro i s t h
  obtain ⟨hops, hasked⟩ := exec_env h
  refine ⟨hops, fun hrnd hskp hsknp hwait => ?_, hasked⟩
  have hp : Part.env ∉ mayWriteParts i := by cases i <;> simp_all [mayWriteParts]
  exact exec_same h hp

/-! ### The unmatched word (R107) -/

/-- Row `UNIMPL` hands the host a report and advances (R107). -/
theorem exec_unimpl (op : Word) (s : State) : exec (.unimpl op) s = .next (s.emit (.report s.pc op)).advance := rfl

/-- Settles O17: an unmatched word is one output and the ordinary advance. -/
theorem unmatchedWordIsReportedNoOp : Obligations.UnmatchedWordIsReportedNoOp :=
  fun op s => ⟨rfl, _, exec_unimpl op s, rfl, (s.changesOnly_emit _).advance, rfl⟩

end Sys2Proof.Machine
end

section
/-! PROOFS. The statements on drawing (44_display.md R191, R193). What `Dxyn` does to a pixel and to VF is said once, through
the pixels that its sprite covers. -/

namespace Sys2Proof.Machine

/-- `Dxyn` reads its coordinates, clears VF, draws and advances (R193). -/
theorem exec_drw (x y : RegIdx) (n : Nibble) (s : State) :
    exec (.drw x y n) s =
      .next ((s.setV vf 0#8).drawRows (baseRow (s.readV y)) (baseCol (s.readV x)) n.toNat).advance := rfl

/-- A set bit on a lit pixel lies in the grid, so a collision is a covered pixel that is on. -/
theorem State.collides_iff (s : State) (row col n : Nat) :
    s.collides row col n ↔ ∃ r c, s.spriteCovers row col n r c ∧ s.getPixel r c = true := by
  constructor
  · rintro ⟨r, hr, c, hc, hbit, hon⟩
    have hgrid : row + r < 32 ∧ col + c < 64 := by
      by_contra hout
      rw [State.getPixel_out _ _ _ hout] at hon
      cases hon
    refine ⟨row + r, col + c, ⟨by omega, by omega, by omega, by omega, ?_, hgrid⟩, hon⟩
    rwa [Nat.add_sub_cancel_left, Nat.add_sub_cancel_left]
  · rintro ⟨r, c, ⟨hrow, hr, hcol, hc, hbit, -⟩, hon⟩
    refine ⟨r - row, by omega, c - col, by omega, hbit, ?_⟩
    rwa [Nat.add_sub_cancel' hrow, Nat.add_sub_cancel' hcol]

section
variable {x y : RegIdx} {n : Nibble} {s t : State} (h : exec (.drw x y n) s = .next t)
include h

/-- `Dxyn` flips exactly the pixels that its sprite covers (R193). -/
theorem getPixel_exec_drw (r c : Nat) :
    t.getPixel r c =
      (s.getPixel r c ^^ decide (s.spriteCovers (baseRow (s.readV y)) (baseCol (s.readV x)) n.toNat r c)) := by
  cases (exec_drw x y n s).symm.trans h
  exact State.getPixel_drawRows _ _ _ _ _ _

/-- `Dxyn` leaves 1 in VF after a collision (R193). -/
theorem vf_exec_drw_of_collides (hc : s.collides (baseRow (s.readV y)) (baseCol (s.readV x)) n.toNat) :
    t.readV vf = 1#8 := by
  cases (exec_drw x y n s).symm.trans h
  exact (State.vf_drawRows (s.setV vf 0#8) _ _ _).1 hc

/-- `Dxyn` leaves 0 in VF without a collision (R193). -/
theorem vf_exec_drw_of_not_collides (hc : ¬ s.collides (baseRow (s.readV y)) (baseCol (s.readV x)) n.toNat) :
    t.readV vf = 0#8 := by
  cases (exec_drw x y n s).symm.trans h
  exact ((State.vf_drawRows (s.setV vf 0#8) _ _ _).2 hc).trans (by simp)

/-- VF ends as 1 exactly after a collision (R193). -/
theorem vf_exec_drw_eq_one_iff :
    t.readV vf = 1#8 ↔ s.collides (baseRow (s.readV y)) (baseCol (s.readV x)) n.toNat := by
  refine ⟨fun hone => ?_, vf_exec_drw_of_collides h⟩
  by_contra hc
  rw [vf_exec_drw_of_not_collides h hc] at hone
  cases hone

/-- The sprite that `Dxyn` has drawn stands unchanged at `I`, since neither `I` nor memory is written. -/
theorem spriteAt_exec_drw (r c : Nat) : t.spriteAt r c = s.spriteAt r c := by
  have hi : t.i = s.i := exec_same (p := .index) h (by simp [mayWriteParts])
  have hmem : ∀ a, t.memRead a = s.memRead a := exec_same (p := .memory) h (by simp [mayWriteParts])
  rw [State.spriteAt, State.spriteAt, State.dataAddr, State.dataAddr, hi, hmem]

end

/-- Settles O39: a covered pixel is flipped, any other is kept, and VF tells of a covered pixel that was on. -/
theorem drawXorsTheSprite : Obligations.DrawXorsTheSprite := by
  intro x y n s
  have hexec := exec_drw x y n s
  refine ⟨rfl, _, hexec, by simp, exec_changesOnly hexec, fun baseR baseC hR hC => ?_⟩
  have hR' : baseR = baseRow (s.readV y) := hR
  have hC' : baseC = baseCol (s.readV x) := hC
  rw [hR', hC']
  refine ⟨fun r c hcov => ?flipped, fun r c hcov => ?kept, fun hon => ?collision, fun hon => ?clear⟩
  case flipped => rw [getPixel_exec_drw hexec, decide_eq_true hcov, Bool.xor_true]
  case kept => rw [getPixel_exec_drw hexec, decide_eq_false hcov, Bool.xor_false]
  case collision => exact vf_exec_drw_of_collides hexec ((s.collides_iff _ _ _).mpr hon)
  case clear => exact vf_exec_drw_of_not_collides hexec fun hc => hon ((s.collides_iff _ _ _).mp hc)

/-- Settles O40: both draws cover the same pixels, so a pixel is flipped twice or not at all, and the second collides exactly
where the first turned a pixel on. -/
theorem drawingTwiceRestoresTheDisplay : Obligations.DrawingTwiceRestoresTheDisplay := by
  intro x y n s t u w hfirst hu hcol hrow hsecond
  subst hu
  have hcol' : baseCol ((t.setPc s.pc).readV x) = baseCol (s.readV x) := hcol
  have hrow' : baseRow ((t.setPc s.pc).readV y) = baseRow (s.readV y) := hrow
  have hcov : ∀ row col m r c, (t.setPc s.pc).spriteCovers row col m r c ↔ s.spriteCovers row col m r c := by
    intro row col m r c
    have hbit : (t.setPc s.pc).spriteAt (r - row) (c - col) = s.spriteAt (r - row) (c - col) :=
      spriteAt_exec_drw hfirst _ _
    simp only [State.spriteCovers, hbit]
  have ht := getPixel_exec_drw hfirst
  refine ⟨fun r c => ?display, ?collision⟩
  case display =>
    rw [getPixel_exec_drw hsecond, State.setPc_getPixel, ht, hcol', hrow']
    simp only [hcov, Bool.xor_assoc, Bool.xor_self, Bool.xor_false]
  case collision =>
    rw [vf_exec_drw_eq_one_iff hsecond, State.collides_iff, hcol', hrow']
    refine exists_congr fun r => exists_congr fun c => ?_
    rw [hcov, State.setPc_getPixel, ht]
    cases s.getPixel r c <;> simp

/-! ### The flags (R37) -/

theorem flagByte_zero_or_one (b : Bool) : flagByte b = 0#8 ∨ flagByte b = 1#8 := by
  cases b
  · exact .inl rfl
  · exact .inr rfl

theorem notBorrowFlag_zero_or_one (a b : Byte) : notBorrowFlag a b = 0#8 ∨ notBorrowFlag a b = 1#8 := by
  unfold notBorrowFlag
  split
  · exact .inl rfl
  · exact .inr rfl

/-- Settles O52: VF holds what the flag computation wrote, unless a later write goes to `x = 0xF`. -/
theorem flagsAreZeroOrOne : Obligations.FlagsAreZeroOrOne := by
  rintro x y n i s t h (rfl | rfl | ⟨hx, rfl | rfl | rfl | rfl⟩)
  · cases (exec_addReg x y s).symm.trans h
    rw [State.readV_finishV_self]
    exact flagByte_zero_or_one _
  · by_cases hc : s.collides (baseRow (s.readV y)) (baseCol (s.readV x)) n.toNat
    · exact .inr (vf_exec_drw_of_collides h hc)
    · exact .inl (vf_exec_drw_of_not_collides h hc)
  · cases (exec_subReg x y s).symm.trans h
    rw [State.readV_subtract_vf s _ _ hx]
    exact notBorrowFlag_zero_or_one _ _
  · cases (exec_shrReg x y s rfl).symm.trans h
    have hflag : lowBitFlag (s.readV y) = 0#8 ∨ lowBitFlag (s.readV y) = 1#8 := flagByte_zero_or_one _
    simpa [hx.symm] using hflag
  · cases (exec_subnReg x y s).symm.trans h
    rw [State.readV_subtract_vf s _ _ hx]
    exact notBorrowFlag_zero_or_one _ _
  · cases (exec_shlReg x y s rfl).symm.trans h
    have hflag : highBitFlag (s.readV y) = 0#8 ∨ highBitFlag (s.readV y) = 1#8 := flagByte_zero_or_one _
    simpa [hx.symm] using hflag

end Sys2Proof.Machine
end

section
/-! PROOFS. The statements on the cycle and on the host's operations (20_memory.md, 40_cycle.md, 60_exceptions.md sections 4 to
6, 70_reset_and_hazards.md). A step begins with `step_cons` or `step_nil`; each operation then has its own lemmas. -/

namespace Sys2Proof.Machine

/-! ### Fetch (R53) -/

/-- The high byte counts 256 (R53). -/
theorem toNat_wordOfBytes (hi lo : Byte) : (wordOfBytes hi lo).toNat = hi.toNat * 256 + lo.toNat := by
  rw [wordOfBytes, BitVec.toNat_append, ← Nat.shiftLeft_add_eq_or_of_lt lo.isLt, Nat.shiftLeft_eq]

/-- Settles O8: `Fetch` reads the high byte at `PC` and the low byte after it, each through the reduction of R52. -/
theorem fetchIsBigEndian : Obligations.FetchIsBigEndian :=
  fun s => ⟨toNat_wordOfBytes _ _, fun a => (s.memRead_mod a).symm⟩

/-! ### The step that runs an instruction (R100) -/

/-- The free `Tick`s before a `Cycle` are invocations of `tick` (R278). -/
theorem State.freeTicks_eq_iterate (s : State) :
    s.freeTicks = (State.tick^[Config.ticksBefore s.env.drawn] s).setEnv { s.env with drawn := s.env.drawn + 1 } := by
  rw [State.freeTicks, State.ticks_eq_iterate]
  rfl

/-- A listed `Cycle` on a core that is not faulted runs the word at `PC` (R100). -/
theorem step_cycle {s : State} {ops : List HostOp} (hops : s.env.ops = .cycle :: ops) (hfault : s.fault = 0#2) :
    step s = exec (decodeWord s.fetch) ((s.withOps ops).setLoadable false) :=
  (step_cons hops).trans (State.cycle_running (s := s.withOps ops) hfault)

/-- Settles O6: the fetch does not see the host's list, the timers or the count of free values. -/
theorem stepRunsDecodedInstruction : Obligations.StepRunsDecodedInstruction := by
  intro s
  refine ⟨s.freeTicks_eq_iterate, fun i hfault hdec => ⟨fun ops hops => ?listed, fun hops => ?free⟩⟩
  case listed =>
    rw [step_cycle hops hfault, hdec]
    rfl
  case free =>
    rw [step_nil hops, State.cycle_running (s.freeTicks_fault.trans hfault), State.freeTicks_fetch, hdec]
    rfl

/-- The table's bytes of a 16-bit word are its bytes in memory (R80). -/
theorem tableBytes_word (op : Word) : tableBytes 16 op.toNat = bytesOfWord op := by
  rw [tableBytes, Nat.mod_eq_of_lt op.isLt, BitVec.ofNat_toNat, BitVec.setWidth_eq]

/-- The bytes of a word stored at `PC` are the next word fetched (R53, R64). -/
theorem State.fetch_memWriteList_pc (s : State) (op : Word) : (s.memWriteList s.pc.toNat (bytesOfWord op)).fetch = op := by
  have hread := s.memRead_memWriteList s.pc.toNat (bytesOfWord op) (by simp [bytesOfWord])
  have hhi := hread 0 (by simp [bytesOfWord])
  have hlo := hread 1 (by simp [bytesOfWord])
  rw [State.fetch, State.memWriteList_pc]
  exact (congrArg₂ wordOfBytes hhi hlo).trans (wordOfBytes_bytes op)

theorem State.fetch_withFetchWord (s : State) (op : Word) : (s.withFetchWord 16 op.toNat).fetch = op := by
  rw [State.withFetchWord, tableBytes_word]
  exact s.fetch_memWriteList_pc op

/-- Settles O7: the placed word is fetched, and the placed `Cycle` is the next operation on a core that is not faulted. -/
theorem placedWordRunsNext : Obligations.PlacedWordRunsNext := by
  intro s op
  have hfetch := s.fetch_withFetchWord op
  have hops : (s.withFetchWord 16 op.toNat).env.ops = .cycle :: s.env.ops := by simp [State.withFetchWord, State.placeNext]
  exact ⟨hfetch, by rw [step_cycle hops rfl, hfetch]⟩

/-- Settles O57: the jump writes the `PC` that is already there. -/
theorem parkedCoreStaysParked : Obligations.ParkedCoreStaysParked := by
  intro s a ops hparked hops
  obtain ⟨hpc, hwait, hfault, hdec⟩ := hparked
  refine ⟨_, ?_, rfl, hpc, hwait, hfault, hdec⟩
  rw [step_cycle hops hfault, hdec, exec_jp, ← hpc]
  rfl

/-! ### `Tick` (R240) -/

/-- `Tick` writes the two timers alone. -/
theorem State.changesOnly_tick (s : State) : ChangesOnly s s.tick [] [.delay, .sound] := by
  by_cases hf : s.fault = 0#2
  · rw [State.tick_running hf]
    exact (s.changesOnly_setDt _).trans (State.changesOnly_setSt _ _)
  · rw [State.tick_faulted hf]
    exact s.changesOnly_self.mono (by simp) (by simp)

@[simp] theorem State.tick_pc (s : State) : s.tick.pc = s.pc := by
  unfold State.tick
  split <;> rfl

/-- `Tick` carries the ports' record along. -/
theorem State.tick_setEnv (s : State) (e : Env) : (s.setEnv e).tick = s.tick.setEnv e := by
  by_cases hf : s.fault = 0#2
  · rw [State.tick_running hf, State.tick_running (s := s.setEnv e) hf]
    rfl
  · rw [State.tick_faulted hf, State.tick_faulted (s := s.setEnv e) hf]

/-- Settles O13: the step is `tick` with the list shortened. -/
theorem tickCountsTimersDown : Obligations.TickCountsTimersDown := by
  intro s ops hops
  have htick := s.tick_setEnv { s.env with ops := ops }
  refine ⟨s.tick.setEnv { s.env with ops := ops }, ?step, ?pc, rfl, ?frame, rfl, fun hf => ?running, fun hf => ?faulted⟩
  case step => exact (step_cons hops).trans (congrArg Host.Outcome.next htick)
  case pc => simp
  case frame => exact s.changesOnly_tick.trans (State.changesOnly_setEnv _ _)
  case running =>
    rw [State.tick_running hf]
    exact ⟨toNat_decTimer s.dt, toNat_decTimer s.st⟩
  case faulted =>
    rw [State.tick_faulted hf]
    exact ⟨rfl, rfl⟩

/-! ### `GetPixel` (R190, R242) -/

/-- Inside the grid a pixel is the framebuffer's bit (R190). -/
theorem State.getPixel_in (s : State) {row col : Nat} (hr : row < 32) (hc : col < 64) :
    s.getPixel row col = s.fb[row][col] := dif_pos ⟨hr, hc⟩

/-- Settles O16: the step is one output, the pixel. -/
theorem getPixelAnswersAndChangesNothing : Obligations.GetPixelAnswersAndChangesNothing := by
  intro s row col ops hops
  refine ⟨_, step_cons hops, rfl, (s.changesOnly_setEnv _).trans (State.changesOnly_emit _ _), rfl, fun hr hc => ?inside,
    fun hout => ?outside⟩
  case inside => exact congrArg (fun on => Output.pixel row col on :: s.outputs) (s.getPixel_in hr hc)
  case outside => exact congrArg (fun on => Output.pixel row col on :: s.outputs) (s.getPixel_out row col hout)

/-! ### `LoadRom` (R58, R249) -/

/-- At boot a program that fits is copied to 0x200 (R58). -/
theorem State.loadRom_of_fits {s : State} {bytes : List Byte} (hload : s.loadable = true) (hlen : bytes.length ≤ 3584) :
    s.loadRom bytes = .next ((s.memWriteList 0x200 bytes).setLoadable false) := by
  rw [State.loadRom, if_neg (by simp [hload]), if_neg (Nat.not_lt.mpr hlen)]

/-- Settles O14: the bytes lie at 0x200 without a wrap, since 0x200 + 3584 is 4096. -/
theorem loadRomCopiesTheProgramOnce : Obligations.LoadRomCopiesTheProgramOnce := by
  intro s bytes ops hops
  refine ⟨fun hload hlen => ?copied, fun hload => ?refused⟩
  case copied =>
    refine ⟨_, (step_cons hops).trans (State.loadRom_of_fits hload hlen), ?pc, fun j hj => ?inside, fun a ha hout => ?outside,
      ?frame, rfl, ?env⟩
    case pc => simp
    case inside => exact State.memRead_memWriteList _ _ _ (by omega) j hj
    case outside => exact State.memRead_memWriteList_of_not _ _ _ _ fun k hk => by omega
    case frame =>
      exact (((s.changesOnly_setEnv _).trans (State.changesOnly_memWriteList _ _ _)).trans
        (State.changesOnly_setLoadable _ _)).mono (by simp) (by simp)
    case env => simp
  case refused => exact (step_cons hops).trans (if_pos hload)

/-- Settles O15: a core that is loadable tests the length next. -/
theorem tooLongRomIsRefused : Obligations.TooLongRomIsRefused := by
  intro s bytes ops hops hload hlen
  have hrefused : (s.withOps ops).loadRom bytes = .refused .romTooLong := by
    rw [State.loadRom, if_neg (by simp [hload]), if_pos hlen]
  exact (step_cons hops).trans hrefused

/-! ### A latched fault (R106, R234) -/

/-- On a faulted core no operation but `Reset` changes `FAULT` (R234). -/
theorem State.perform_fault {s t : State} (hf : s.fault ≠ 0#2) {op : HostOp} (hop : op ≠ .reset)
    (h : s.perform op = .next t) : t.fault = s.fault := by
  cases op with
  | reset => exact absurd rfl hop
  | cycle => cases (State.cycle_faulted hf).symm.trans h; rfl
  | tick => cases h; rw [State.tick_faulted hf]
  | getPixel row col => cases h; rfl
  | loadRom bytes =>
    obtain ⟨-, hr⟩ | ⟨-, -, hr⟩ | ⟨-, -, hr⟩ := s.loadRom_cases bytes <;> cases hr.symm.trans h
    simp

/-- Settles O9: a faulted core does nothing in a `Cycle` or a `Tick`, listed or free. -/
theorem faultedCoreIsFrozenUntilReset : Obligations.FaultedCoreIsFrozenUntilReset := by
  intro s hf
  refine ⟨State.cycle_faulted hf, State.tick_faulted hf, fun ops hops => ?cycle, fun ops hops => ?tick,
    fun ops row col hops => step_cons hops, fun ops t hops h => ?reset, fun t hops h => ?others⟩
  case cycle => exact (step_cons hops).trans (State.cycle_faulted (s := s.withOps ops) hf)
  case tick => exact (step_cons hops).trans (congrArg Host.Outcome.next (State.tick_faulted (s := s.withOps ops) hf))
  case reset =>
    cases (step_cons hops).symm.trans h
    rfl
  case others =>
    cases hlist : s.env.ops with
    | nil =>
      have hf' : s.freeTicks.fault ≠ 0#2 := by rwa [State.freeTicks_fault]
      rw [step_nil hlist, State.cycle_faulted hf'] at h
      cases h
      exact s.freeTicks_fault
    | cons op ops =>
      rw [step_cons hlist] at h
      have hop : op ≠ .reset := fun e => hops ops (e ▸ hlist)
      exact State.perform_fault (s := s.withOps ops) hf hop h

/-! ### Reset (R36, R270) -/

theorem readV_reset (x : RegIdx) : State.reset.readV x = 0#8 := by
  simp [State.readV, State.reset]

theorem reset_stack_getElem? {k : Nat} (hk : k < 16) : State.reset.stack[k]? = some 0#16 := by
  simp [State.reset, hk]

theorem getPixel_reset (row col : Nat) : State.reset.getPixel row col = false := by
  simp [State.getPixel, State.reset]

/-- With nothing listed, the bytes at 0x050 to 0x09F are the font (R36). -/
theorem State.memRead_font {s : State} (hmem : s.mem = []) {j : Nat} (hj : j < 80) : s.memRead (0x050 + j) = s.font[j] := by
  have hmod : (0x050 + j) % 4096 = 0x050 + j := Nat.mod_eq_of_lt (by omega)
  have hin : 0x050 + j < 160 := by omega
  simp [State.memRead, Memory.read, Memory.find, Memory.unlisted, hmem, hmod, hin]

/-- With nothing listed, every byte outside the font is 0 (R36). -/
theorem State.memRead_outside_font {s : State} (hmem : s.mem = []) {a : Nat} (ha : a < 4096)
    (hout : ¬ (0x050 ≤ a ∧ a < 0x0A0)) : s.memRead a = 0#8 := by
  have hmod : a % 4096 = a := Nat.mod_eq_of_lt ha
  simp [State.memRead, Memory.read, Memory.find, Memory.unlisted, hmem, hmod, hout]

/-- Settles O12: the start state has the values of R36, and lists no byte of memory. -/
theorem machineStartsAtReset : Obligations.MachineStartsAtReset :=
  ⟨rfl, readV_reset, rfl, rfl, fun _ hk => reset_stack_getElem? hk, rfl, rfl, rfl, rfl, rfl, rfl, getPixel_reset,
    fun _ hj => State.memRead_font rfl hj, fun _ ha hout => State.memRead_outside_font rfl ha hout⟩

/-- Settles O11: `Reset` is the start state with the font, the ports' record and the outputs kept. -/
theorem resetLeavesInitialState : Obligations.ResetLeavesInitialState := by
  intro s ops hops
  exact ⟨_, step_cons hops, readV_reset, rfl, rfl, fun _ hk => reset_stack_getElem? hk, rfl, rfl, rfl, rfl, rfl, rfl,
    getPixel_reset, fun _ hj => State.memRead_font (s := (s.withOps ops).hostReset) rfl hj,
    fun _ ha hout => State.memRead_outside_font rfl ha hout, rfl, rfl, rfl, rfl⟩

end Sys2Proof.Machine
end
